-- ==== Sys2Proof/Word.lean ====
section
/-! DEFINITION. The engine's data types: bytes and the fixed-size byte groups of the spec
(00_scope.md R6, R11, R12). Every quantity is unsigned; a byte group is a sequence whose
index 0 is its first byte. -/

namespace Sys2Proof

/-- A byte is 8 bits, bit 0 the least significant (00_scope.md R11). -/
abbrev Byte := BitVec 8

/-- Three bytes destined for three transceiver registers, element 0 first
(00_scope.md R6, R17: a triple). -/
structure Triple where
  e0 : Byte
  e1 : Byte
  e2 : Byte
deriving DecidableEq, Repr, Inhabited

/-- Four bytes, index 0 first: an integrity code (10_state.md R37), a word of the key
expansion (40_aes128.md R130), or one column of the cipher state (40_aes128.md R122). -/
structure Quad where
  b0 : Byte
  b1 : Byte
  b2 : Byte
  b3 : Byte
deriving DecidableEq, Repr, Inhabited

/-- Sixteen bytes, index 0 first: a key, a cipher block or a keystream block. Byte `r + 4 * c`
of the block is byte `r` of column `c` (40_aes128.md R121, R122). -/
structure Block where
  c0 : Quad
  c1 : Quad
  c2 : Quad
  c3 : Quad
deriving DecidableEq, Repr, Inhabited

end Sys2Proof
end

