-- ==== Sys2Proof/Config.lean ====
section
/-! DEFINITION. What an installation fixes and the machine never changes (00_scope.md R7 to
R10, 10_state.md R53), and the values the spec leaves to the environment or calls unspecified
(93_implementation_defined.md U5, U6, U7, U12, U14), each an opaque constant. -/

namespace Sys2Proof

/-- The transceiver's FIFO capacity in bytes, fixed at 64 (00_scope.md R7). -/
abbrev Config.fifoCap : Nat := 64

/-- The frame header's length, HDR_LEN (00_scope.md R6). -/
abbrev Config.hdrLen : Nat := 9

/-- The integrity code's length, MIC_LEN (00_scope.md R6). -/
abbrev Config.micLen : Nat := 4

/-- One entry of DR_TABLE: a profile name and its triple (00_scope.md R9). -/
structure DrProfile where
  name   : String
  triple : Triple
deriving DecidableEq, Repr, Inhabited

/-- The channels of one region, CH_TABLE[r]. R9 asks for at least one channel, so the first one
is a field of its own (00_scope.md R9, 44_radio.md R239). -/
structure ChannelPlan where
  first : Triple
  more  : List Triple
deriving DecidableEq, Repr, Inhabited

/-- One pair of BASELINE: a 7-bit transceiver address and the byte written to it
(00_scope.md R10). -/
structure BaselineWrite where
  addr  : BitVec 7
  value : Byte
deriving DecidableEq, Repr, Inhabited

/-- The parameters of the model (00_scope.md R8, R9, R10). A region table and a data-rate table
each have at least one entry (R9), so the first entry is a field of its own. Durations are
natural numbers of a unit the spec does not fix. -/
structure Params where
  /-- MHDR, the MAC header tag, frame byte 0. -/
  mhdr : Byte
  /-- TAG_A, byte 0 of the keystream input block. -/
  tagA : Byte
  /-- TAG_B, byte 0 of the integrity block. -/
  tagB : Byte
  /-- CTR_BASE, added to the block index to form byte 15 of A_i. -/
  ctrBase : Nat
  /-- DIR_UP, the direction flag for uplink. Frames and their integrity codes carry the constant 0
  (42_integrity.md R181, 43_frame.md R203), so no command reads it (assumption log 19). -/
  dirUp : Bool
  /-- PBUF_SIZE, the payload buffer's size in bytes. -/
  pbufSize : Nat
  /-- CH_TABLE[0]. -/
  region0 : ChannelPlan
  /-- CH_TABLE[1], CH_TABLE[2], and so on. -/
  moreRegions : List ChannelPlan
  /-- DR_TABLE[0]. -/
  profile0 : DrProfile
  /-- DR_TABLE[1], DR_TABLE[2], and so on. -/
  moreProfiles : List DrProfile
  /-- DR_DEFAULT, the index of the profile active after reset. -/
  drDefault : Nat
  regVersion : BitVec 7
  versionExpected : Byte
  regOpmode : BitVec 7
  opmSleep : Byte
  opmStdby : Byte
  opmTx : Byte
  regFrf0 : BitVec 7
  regFrf1 : BitVec 7
  regFrf2 : BitVec 7
  regDr0 : BitVec 7
  regDr1 : BitVec 7
  regDr2 : BitVec 7
  regPaylen : BitVec 7
  regFifo : BitVec 7
  /-- BASELINE, the fixed sequence of baseline configuration registers. -/
  baseline : List BaselineWrite
  /-- T_RST1, the delay after the reset line is asserted. -/
  tRst1 : Nat
  /-- T_RST2, the delay after the reset line is released. -/
  tRst2 : Nat
  /-- T_TICK, the duration of one tick; no rule's outcome depends on it. -/
  tTick : Nat
  /-- T_POLL, the longest time between two samples of the transmit-complete signal. -/
  tPoll : Nat
deriving DecidableEq, Repr, Inhabited

/-- The installation the machine stands in. The spec gives no value for its tables, its
transceiver addresses, its mode and version values, its baseline and its durations
(00_scope.md R9, R10), so nothing is known of them here. DESIGN CHOICE, safe (assumption log 1). -/
opaque Config.installation : Params

/-- The parameters after reset: those the spec gives a default for take it (00_scope.md R8:
MHDR 0x40, TAG_A 0x01, TAG_B 0x49, CTR_BASE 0, DIR_UP 0, PBUF_SIZE 255; R9: DR_DEFAULT 0); all
others stay free. -/
def Config.params : Params :=
  { Config.installation with
    mhdr := 0x40, tagA := 0x01, tagB := 0x49, ctrBase := 0, dirUp := false, pbufSize := 255,
    drDefault := 0 }

/-- FREE VALUE: the byte that buffer address `a` holds after the `n`-th reset while nothing has
written it (93_implementation_defined.md U7, U14: any value). Safe (assumption log 6). -/
opaque Config.resetByte : Nat → Nat → Byte

/-- FREE VALUE: the byte the transceiver answers to the `n`-th question
(93_implementation_defined.md U6: any value). Safe (assumption log 7). -/
opaque Config.busAnswer : Nat → Byte

/-- FREE VALUE: the transmit-complete bit found at the `n`-th question
(93_implementation_defined.md U12: any value per sample). Safe (assumption log 7). -/
opaque Config.txDoneAnswer : Nat → Bool

/-- FREE VALUE: the channel draw at the `n`-th question, before it is brought into range
(93_implementation_defined.md U5: any value in range). Safe (assumption log 7). -/
opaque Config.drawAnswer : Nat → Nat

/-- FREE VALUE: the wait between two polls at the `n`-th question, before it is brought under T_POLL
(44_radio.md R250, 93_implementation_defined.md U9: some time of at most T_POLL). Safe (assumption log 9). -/
opaque Config.pollDelay : Nat → Nat

end Sys2Proof
end

