-- ==== Sys2Proof/Syntax.lean ====
section
/-! DEFINITION. The engine's ten commands (30_encoding.md R92; 00_scope.md R2). No command has a
field: every operand comes from a named register (30_encoding.md R91, R93). -/

namespace Sys2Proof

/-- One constructor per row of the opcode map, 30_encoding.md R92. -/
inductive Instr where
  /-- NOP, 45_system.md R281. -/
  | nop
  /-- LDSESS, 45_system.md R282. -/
  | ldsess
  /-- KSBLK, 41_keystream.md R153. -/
  | ksblk
  /-- CRYPT, 41_keystream.md R155. -/
  | crypt
  /-- MICGEN, 42_integrity.md R183. -/
  | micgen
  /-- BUILD, 43_frame.md R202. -/
  | build
  /-- RINIT, 44_radio.md R230. -/
  | rinit
  /-- SETDR, 44_radio.md R236. -/
  | setdr
  /-- SETCH, 44_radio.md R238. -/
  | setch
  /-- SEND, 44_radio.md R242. -/
  | send
deriving DecidableEq, Repr, Inhabited

end Sys2Proof
end

