-- ==== Sys2Proof/WellFormed.lean ====
section
/-! DEFINITION. Well-formedness. A command has no operand field (30_encoding.md R91), so every
term of `Instr` is well formed; what can be ill formed is an installation's parameters, which
00_scope.md R9, R10, 10_state.md R21, R45 and 42_integrity.md R181 constrain. -/

namespace Sys2Proof

/-- Format CMD8 has no register, immediate or mode field, so there is nothing to check in a
command (30_encoding.md R91). -/
def Instr.wellFormed : Instr → Bool
  | .nop => true
  | .ldsess => true
  | .ksblk => true
  | .crypt => true
  | .micgen => true
  | .build => true
  | .rinit => true
  | .setdr => true
  | .setch => true
  | .send => true

/-- `DR_DEFAULT < N_DR` (00_scope.md R9). -/
def Params.defaultInTable (p : Params) : Bool :=
  p.drDefault < p.moreProfiles.length + 1

/-- The names of DR_TABLE are pairwise distinct (00_scope.md R9). -/
def Params.namesDistinct (p : Params) : Bool :=
  ((p.profile0 :: p.moreProfiles).map (·.name)).Nodup

/-- The three OPM_* values are pairwise distinct (00_scope.md R10). -/
def Params.modesDistinct (p : Params) : Bool :=
  [p.opmSleep, p.opmStdby, p.opmTx].Nodup

/-- PBUF has a host address for each of its bytes: the map has 255 for it (10_state.md R21,
20_memory.md R61). -/
def Params.bufferInMap (p : Params) : Bool :=
  p.pbufSize ≤ 255

/-- DIR_UP is the 0 that every frame and integrity code carries (42_integrity.md R181, 43_frame.md
R203; 90_conflicts.md C8). DEDUCED, safe (assumption log 19). -/
def Params.uplinkIsZero (p : Params) : Bool :=
  !p.dirUp

/-- `N_BASE` is at most 255, so that FIDX can index BASELINE (10_state.md R45). -/
def Params.baselineIndexable (p : Params) : Bool :=
  p.baseline.length ≤ 255

/-- All constraints the spec puts on the parameters that the types do not already carry. -/
def Params.wellFormed (p : Params) : Bool :=
  p.defaultInTable && p.namesDistinct && p.modesDistinct && p.bufferInMap && p.uplinkIsZero
    && p.baselineIndexable

end Sys2Proof
end

