-- ==== Sys2Proof/Decode.lean ====
section
/-! DEFINITION. Decoding and encoding of command bytes, format CMD8 (30_encoding.md R90 to R95):
bits 7 to 4 name the unit, bits 3 to 0 the function within it; a command is always one byte. -/

namespace Sys2Proof

/-- Why a byte sequence is no command. -/
inductive DecodeError where
  /-- There is no byte to decode. -/
  | noByte
  /-- The unit field names none of the five units: values 5 to 15 (30_encoding.md R91, R94). -/
  | reservedUnit (unit : Nat)
  /-- The unit exists and has no such function (30_encoding.md R94). -/
  | reservedFunction (unit func : Nat)
deriving DecidableEq, Repr

/-- Bits 7:4 of a command byte (30_encoding.md R91). -/
def unitField (c : Byte) : Nat := (c.extractLsb' 4 4).toNat

/-- Bits 3:0 of a command byte (30_encoding.md R91). -/
def funcField (c : Byte) : Nat := (c.extractLsb' 0 4).toNat

/-- The opcode map of 30_encoding.md R92, by its two fields; every other pair is reserved (R94). -/
def decodeFields : Nat → Nat → Except DecodeError Instr
  | 0, 0 => .ok .nop
  | 0, 1 => .ok .ldsess
  | 1, 0 => .ok .ksblk
  | 1, 1 => .ok .crypt
  | 2, 0 => .ok .micgen
  | 3, 0 => .ok .build
  | 4, 0 => .ok .rinit
  | 4, 1 => .ok .setdr
  | 4, 2 => .ok .setch
  | 4, 3 => .ok .send
  | unit, func => if unit ≤ 4 then .error (.reservedFunction unit func) else .error (.reservedUnit unit)

/-- The command a byte stands for; a total function of the byte (30_encoding.md R95). -/
def decodeByte (c : Byte) : Except DecodeError Instr := decodeFields (unitField c) (funcField c)

/-- The first command of a byte sequence and the bytes after it. -/
def decode : List Byte → Except DecodeError (Instr × List Byte)
  | [] => .error .noByte
  | c :: rest =>
    match decodeByte c with
    | .ok i => .ok (i, rest)
    | .error e => .error e

/-- The unit of a command (30_encoding.md R92). -/
def Instr.unitCode : Instr → BitVec 4
  | .nop => 0
  | .ldsess => 0
  | .ksblk => 1
  | .crypt => 1
  | .micgen => 2
  | .build => 3
  | .rinit => 4
  | .setdr => 4
  | .setch => 4
  | .send => 4

/-- The function of a command within its unit (30_encoding.md R92). -/
def Instr.funcCode : Instr → BitVec 4
  | .nop => 0
  | .ldsess => 1
  | .ksblk => 0
  | .crypt => 1
  | .micgen => 0
  | .build => 0
  | .rinit => 0
  | .setdr => 1
  | .setch => 2
  | .send => 3

/-- The command byte: unit in bits 7:4, function in bits 3:0 (30_encoding.md R91, R92). -/
def encodeByte (i : Instr) : Byte := i.unitCode ++ i.funcCode

/-- The bytes of a command: one byte (30_encoding.md R94). -/
def encode (i : Instr) : List Byte := [encodeByte i]

/-- All commands of a byte sequence, in order, or the first error. -/
def decodeAll : List Byte → Except DecodeError (List Instr)
  | [] => .ok []
  | c :: rest =>
    match decodeByte c with
    | .error e => .error e
    | .ok i =>
      match decodeAll rest with
      | .error e => .error e
      | .ok is => .ok (i :: is)

/-- The byte that an instruction word of the opcode table is: its low `nbits` bits, every bit above
them 0 (a command is one byte, 30_encoding.md R90). -/
def tableByte (nbits w : Nat) : Byte := BitVec.ofNat 8 (w % 2 ^ nbits)

/-- What the decoder reads from a word numbered as spec/opcode_table.json numbers it. -/
def decodeTableWord (nbits w : Nat) : Option Instr :=
  match decode [tableByte nbits w] with
  | .ok (i, _) => some i
  | .error _ => none

end Sys2Proof
end

