-- ==== Sys2Proof/Machine/Tables.lean ====
section
/-! DEFINITION. Lookups in the parameter tables CH_TABLE and DR_TABLE (00_scope.md R9). -/

namespace Sys2Proof

/-- The channels of a region, CH_TABLE[r]; never empty. -/
def ChannelPlan.channels (c : ChannelPlan) : List Triple := c.first :: c.more

/-- CH_TABLE, by region tag; never empty. -/
def Params.chTable (p : Params) : List ChannelPlan := p.region0 :: p.moreRegions

/-- N_REGION (00_scope.md R9). -/
def Params.nRegion (p : Params) : Nat := p.chTable.length

/-- N_CH(r), the number of channels of region `r`; 0 for a tag outside the table, where the spec
defines no such number. -/
def Params.nCh (p : Params) (r : Nat) : Nat :=
  match p.chTable[r]? with
  | some plan => plan.channels.length
  | none => 0

/-- CH_TABLE[r][k], where both indices are in range. -/
def Params.channel? (p : Params) (r k : Nat) : Option Triple :=
  match p.chTable[r]? with
  | some plan => plan.channels[k]?
  | none => none

/-- DR_TABLE; never empty. -/
def Params.drTable (p : Params) : List DrProfile := p.profile0 :: p.moreProfiles

/-- N_DR (00_scope.md R9). -/
def Params.nDr (p : Params) : Nat := p.drTable.length

/-- The triple of DR_TABLE[k], where `k < N_DR`. -/
def Params.profile? (p : Params) (k : Nat) : Option Triple := (p.drTable[k]?).map (·.triple)

/-- The triple of DR_TABLE[DR_DEFAULT], DRCFG's reset value (10_state.md R48). A parameter record
whose DR_DEFAULT is out of range is ill formed (R9) and gets the first entry. -/
def Params.defaultTriple (p : Params) : Triple := (p.profile? p.drDefault).getD p.profile0.triple

end Sys2Proof
end

