-- ==== Sys2Proof/Machine/State.lean ====
section
/-! DEFINITION. The engine's state (10_state.md R20 to R52), the agents' pending actions and the
engine's event trace (20_memory.md R73, R74; 00_scope.md R15), and the state after reset
(70_reset_and_hazards.md R320). All of it is plain data. -/

namespace Sys2Proof.Machine

/-- The radio mode, 10_state.md R42; the code 3 is no mode. DEDUCED, safe (assumption log 10). -/
inductive RadioMode where
  | sleep
  | standby
  | transmit
deriving DecidableEq, Repr, Inhabited

/-- The sequencer phase SEQ, 10_state.md R44; every other code of the byte never occurs. DEDUCED, safe
(assumption log 10). -/
inductive Phase where
  | idle
  | iVer
  | iRstA
  | iRstB
  | iBase
  | sStdby
  | sChsel
  | sProg
  | sFifo
  | sTxgo
  | sPoll
  | sSleep
deriving DecidableEq, Repr, Inhabited

/-- The error kinds a command can end with, 60_exceptions.md R290. -/
inductive ErrorKind where
  | deviceNotDetected
  | unsupportedRegion
  | unsupportedDatarate
  | payloadTooLarge
  | sendTimeout
  | illegalCommand
  | notReady
deriving DecidableEq, Repr, Inhabited

/-- What stands at a host address, 10_state.md R21 and 20_memory.md R61; `k` is the byte's index. -/
inductive HostLoc where
  | cmd
  | status
  | err
  | seq
  | dir
  | port
  | fcntL
  | fcntH
  | plen
  | blkidx
  | mlen
  | drsel
  | chsel
  | tmoL
  | tmoH
  | region
  | devaddr (k : Nat)
  | flen
  | fidx
  | elapsedL
  | elapsedH
  | drcfg (k : Nat)
  | chcfg (k : Nat)
  | nwkskey (k : Nat)
  | appskey (k : Nat)
  | ks (k : Nat)
  | mic (k : Nat)
  | pbuf (k : Nat)
  | fbuf (k : Nat)
  | unmapped
deriving DecidableEq, Repr, Inhabited

/-- One entry of the engine's event trace, 20_memory.md R74. -/
inductive Event where
  /-- `BusRead(a) = v`, 20_memory.md R71. -/
  | busRead (a : BitVec 7) (v : Byte)
  /-- `BusWrite(a, v)`, 20_memory.md R70. -/
  | busWrite (a : BitVec 7) (v : Byte)
  /-- The transceiver's reset line goes active, 44_radio.md R232. -/
  | rstAssert
  /-- The transceiver's reset line goes inactive, 44_radio.md R232. -/
  | rstRelease
  /-- `Delay(T)`, 70_reset_and_hazards.md R340. -/
  | delay (t : Nat)
  /-- `SampleTxDone() = d`, 44_radio.md R252. -/
  | sampleTxDone (d : Bool)
  /-- `DrawChannel(n) = k`, 44_radio.md R246. -/
  | drawChannel (n k : Nat)
deriving DecidableEq, Repr, Inhabited

/-- One agent's turn, 00_scope.md R15. DESIGN CHOICE, safe (assumption log 2). -/
inductive Turn where
  /-- The host writes byte `v` at host address `a`, 20_memory.md R62. -/
  | hostWrite (a : BitVec 16) (v : Byte)
  /-- The host reads host address `a`, 20_memory.md R62. -/
  | hostRead (a : BitVec 16)
  /-- The tick source delivers one tick, 44_radio.md R254. -/
  | tick
  /-- The host's environment asserts RST_N, 70_reset_and_hazards.md R320. -/
  | resetPin
  /-- The engine takes one micro-step, or waits when it is idle, 10_state.md R44. -/
  | engine
deriving DecidableEq, Repr, Inhabited

/-- The two buffers' written bytes, by host address: PBUF at 0x0100 to 0x01FE, FBUF at 0x0200 to
0x023F (20_memory.md R60, R61). Addresses rise strictly. An address that is not listed holds no
written byte. -/
structure Memory where
  cells : List Host.Cell
deriving DecidableEq, Repr, Inhabited

/-- Why the machine stops. Each names a state the sequencer never reaches (10_state.md R44, R45;
44_radio.md R257; Safety.lean's invariant excludes all three), so each is SAFE: the model stops
where the spec describes no step (assumption log 11). -/
inductive Fault where
  /-- Raised by S_PROG when FIDX is above 6: the spec's table of configuration writes has no such
  row (44_radio.md R247). Safe. -/
  | configurationIndexOutOfRange
  /-- Raised by S_FIFO when the frame byte to send lies beyond FBUF[63]: no such byte exists
  (20_memory.md R67). Safe. -/
  | frameIndexOutOfRange
  /-- Raised by S_CHSEL when REGION is no region tag, so that there is no channel to draw
  (44_radio.md R246, 00_scope.md R9). Safe. -/
  | noChannelPlan
deriving DecidableEq, Repr, Inhabited

/-- Why the model gives a situation no meaning. -/
inductive Refusal where
  /-- Raised by `exec` for a command that has no meaning yet; no arm uses it. Safe. -/
  | notModelled (mnemonic : String)
  /-- Raised by a host write while BUSY = 1: unspecified, and the host model never does it
  (10_state.md R43; 93_implementation_defined.md U3: refuse). Safe (assumption log 3). -/
  | hostWriteWhileBusy
  /-- Raised by SETCH when `CHSEL >= N_CH(REGION)`: unspecified, a model refuses it
  (44_radio.md R238; 93_implementation_defined.md U1: refuse). Safe (assumption log 4). -/
  | channelIndexOutOfRange
  /-- Raised by MICGEN when `MLEN > FIFO_CAP`: unspecified, there are no bytes to take
  (42_integrity.md R183; 93_implementation_defined.md U2: refuse). Safe (assumption log 5). -/
  | messageLongerThanBuffer
deriving DecidableEq, Repr, Inhabited

/-- The machine's state. The first groups are the spec's (10_state.md R20); the last two, and
`params`, are the model's own: what an installation fixes, what the other agents will do, and what
they have seen. -/
structure State where
  /-- The installation's parameters, which no step changes (10_state.md R53). -/
  params : Params
  /-- DEVADDR, 32 bits (R22). -/
  devaddr : BitVec 32
  /-- NWKSKEY, 16 bytes (R23). -/
  nwkskey : Block
  /-- APPSKEY, 16 bytes (R24). -/
  appskey : Block
  /-- REGION, 8 bits (R25). -/
  region : Byte
  /-- SESS, 1 bit (R26). -/
  sess : Bool
  /-- DIR, 1 bit (R27). -/
  dir : Bool
  /-- PORT, 8 bits (R28). -/
  port : Byte
  /-- FCNT, 16 bits (R30). -/
  fcnt : BitVec 16
  /-- PLEN, 8 bits (R29). -/
  plen : Byte
  /-- BLKIDX, 8 bits (R31). -/
  blkidx : Byte
  /-- MLEN, 8 bits (R32). -/
  mlen : Byte
  /-- DRSEL, 8 bits (R33). -/
  drsel : Byte
  /-- CHSEL, 8 bits (R34). -/
  chsel : Byte
  /-- TMO, 16 bits (R35). -/
  tmo : BitVec 16
  /-- KS, 16 bytes (R36). -/
  ks : Block
  /-- MIC, 4 bytes (R37). -/
  mic : Quad
  /-- FLEN, 8 bits (R38). -/
  flen : Byte
  /-- FVALID, 1 bit (R39). -/
  fvalid : Bool
  /-- ERR, 8 bits (R40). -/
  err : Byte
  /-- DRCFG, 3 bytes (R48). -/
  drcfg : Triple
  /-- CHMODE, 1 bit: 0 multi-channel, 1 single-channel (R49). -/
  chmode : Bool
  /-- CHCFG, 3 bytes (R50). -/
  chcfg : Triple
  /-- READY, 1 bit (R47). -/
  ready : Bool
  /-- MODE, 2 bits (R42). -/
  mode : RadioMode
  /-- BUSY, 1 bit (R43). -/
  busy : Bool
  /-- SEQ, 8 bits (R44). -/
  seq : Phase
  /-- FIDX, 8 bits (R45). -/
  fidx : Byte
  /-- ELAPSED, 16 bits (R46). -/
  elapsed : BitVec 16
  /-- TIMEDOUT, 1 bit (R46). -/
  timedout : Bool
  /-- PBUF and FBUF (R51, R52). -/
  mem : Memory
  /-- Model's own: how many resets there have been; it picks the free bytes of unwritten buffer
  addresses. -/
  resets : Nat
  /-- Model's own: the agents' next turns, first one first; when it is empty the engine goes on. -/
  agenda : List Turn
  /-- Model's own: the transceiver's next answers to BusRead. -/
  busAnswers : List Byte
  /-- Model's own: the next values of the transmit-complete signal. -/
  txDoneAnswers : List Bool
  /-- Model's own: the environment's next channel draws, brought into range when used. -/
  drawAnswers : List Nat
  /-- Model's own: how many answers the environment has given; it picks the free answers. -/
  asked : Nat
  /-- Model's own: the event trace, oldest event first (20_memory.md R74). -/
  trace : List Event
  /-- Model's own: what the host has read, oldest first. -/
  hostReads : List (BitVec 16 × Byte)
deriving DecidableEq, Repr, Inhabited

/-- The state after power-on and reset of an installation with the given parameters
(10_state.md R55, 70_reset_and_hazards.md R320): no agent has acted, and nothing is written in the
buffers. -/
def State.resetWith (p : Params) : State where
  params := p
  devaddr := 0
  nwkskey := default
  appskey := default
  region := 0
  sess := false
  dir := false
  port := 0
  fcnt := 0
  plen := 0
  blkidx := 0
  mlen := 0
  drsel := 0
  chsel := 0
  tmo := 0
  ks := default
  mic := default
  flen := 0
  fvalid := false
  err := 0
  drcfg := p.defaultTriple
  chmode := false
  chcfg := default
  ready := false
  mode := .sleep
  busy := false
  seq := .idle
  fidx := 0
  elapsed := 0
  timedout := false
  mem := ⟨[]⟩
  resets := 0
  agenda := []
  busAnswers := []
  txDoneAnswers := []
  drawAnswers := []
  asked := 0
  trace := []
  hostReads := []

/-- The machine right after reset (70_reset_and_hazards.md R320). The values of the model's own fields
are a DESIGN CHOICE, unsafe (assumption log 18). -/
def State.reset : State := State.resetWith Config.params

end Sys2Proof.Machine
end

