-- ==== Sys2Proof/Machine/Bytes.lean ====
section
/-! DEFINITION. Byte groups as sequences, their byte-wise exclusive-or, and little-endian byte
extraction (00_scope.md R12; 20_memory.md R64). -/

namespace Sys2Proof

/-- Byte `k` of three, index 0 first. -/
def Triple.get (t : Triple) : Nat → Byte
  | 0 => t.e0
  | 1 => t.e1
  | _ => t.e2

/-- Byte `k` of four, index 0 first. -/
def Quad.get (q : Quad) : Nat → Byte
  | 0 => q.b0
  | 1 => q.b1
  | 2 => q.b2
  | _ => q.b3

/-- Four bytes with byte `k` replaced. -/
def Quad.set (q : Quad) (k : Nat) (v : Byte) : Quad :=
  match k with
  | 0 => { q with b0 := v }
  | 1 => { q with b1 := v }
  | 2 => { q with b2 := v }
  | _ => { q with b3 := v }

/-- The four bytes in order. -/
def Quad.toList (q : Quad) : List Byte := [q.b0, q.b1, q.b2, q.b3]

/-- A byte function applied to each of four bytes. -/
def Quad.map (f : Byte → Byte) (q : Quad) : Quad := ⟨f q.b0, f q.b1, f q.b2, f q.b3⟩

/-- Byte-wise exclusive-or (R12). -/
def Quad.xor (x y : Quad) : Quad := ⟨x.b0 ^^^ y.b0, x.b1 ^^^ y.b1, x.b2 ^^^ y.b2, x.b3 ^^^ y.b3⟩

/-- Column `c` of a block (40_aes128.md R122). -/
def Block.col (b : Block) : Nat → Quad
  | 0 => b.c0
  | 1 => b.c1
  | 2 => b.c2
  | _ => b.c3

/-- Byte `k` of a block, `k < 16`: row `k mod 4` of column `k div 4` (40_aes128.md R122). -/
def Block.get (b : Block) (k : Nat) : Byte := (b.col (k / 4)).get (k % 4)

/-- A block with byte `k` replaced, `k < 16`. -/
def Block.set (b : Block) (k : Nat) (v : Byte) : Block :=
  match k / 4 with
  | 0 => { b with c0 := b.c0.set (k % 4) v }
  | 1 => { b with c1 := b.c1.set (k % 4) v }
  | 2 => { b with c2 := b.c2.set (k % 4) v }
  | _ => { b with c3 := b.c3.set (k % 4) v }

/-- The sixteen bytes in order. -/
def Block.toList (b : Block) : List Byte :=
  b.c0.toList ++ b.c1.toList ++ b.c2.toList ++ b.c3.toList

/-- The first sixteen bytes of a sequence; a byte the sequence does not have is zero. -/
def Block.ofList (l : List Byte) : Block :=
  let byte (k : Nat) : Byte := l.getD k 0
  ⟨⟨byte 0, byte 1, byte 2, byte 3⟩, ⟨byte 4, byte 5, byte 6, byte 7⟩,
   ⟨byte 8, byte 9, byte 10, byte 11⟩, ⟨byte 12, byte 13, byte 14, byte 15⟩⟩

/-- Byte-wise exclusive-or (R12). -/
def Block.xor (x y : Block) : Block :=
  ⟨x.c0.xor y.c0, x.c1.xor y.c1, x.c2.xor y.c2, x.c3.xor y.c3⟩

/-- Sixteen zero bytes (R12: 0^16). -/
def Block.zero : Block := ⟨⟨0, 0, 0, 0⟩, ⟨0, 0, 0, 0⟩, ⟨0, 0, 0, 0⟩, ⟨0, 0, 0, 0⟩⟩

/-- Byte `k` of a number, byte 0 the least significant. -/
def byteAt {n : Nat} (v : BitVec n) (k : Nat) : Byte := v.extractLsb' (8 * k) 8

/-- The two bytes of a 16-bit value, least-significant byte first (R12). -/
def le16 (v : BitVec 16) : List Byte := [byteAt v 0, byteAt v 1]

/-- The four bytes of a 32-bit value, least-significant byte first (R12). -/
def le32 (v : BitVec 32) : List Byte := [byteAt v 0, byteAt v 1, byteAt v 2, byteAt v 3]

/-- A 16-bit value with byte 0, its least-significant byte, replaced. -/
def setLow (v : BitVec 16) (b : Byte) : BitVec 16 := byteAt v 1 ++ b

/-- A 16-bit value with byte 1, its most-significant byte, replaced. -/
def setHigh (v : BitVec 16) (b : Byte) : BitVec 16 := b ++ byteAt v 0

/-- A 32-bit value with byte `k` replaced, byte 0 the least significant. -/
def setByte32 (v : BitVec 32) (k : Nat) (b : Byte) : BitVec 32 :=
  match k with
  | 0 => byteAt v 3 ++ byteAt v 2 ++ byteAt v 1 ++ b
  | 1 => byteAt v 3 ++ byteAt v 2 ++ b ++ byteAt v 0
  | 2 => byteAt v 3 ++ b ++ byteAt v 1 ++ byteAt v 0
  | _ => b ++ byteAt v 2 ++ byteAt v 1 ++ byteAt v 0

end Sys2Proof
end

