-- ==== Sys2Proof/Machine/Aes.lean ====
section
/-! DEFINITION. The forward AES-128 cipher (40_aes128.md R120 to R133). -/

namespace Sys2Proof

/-- Multiplication by 2 in GF(2^8) with the polynomial 0x11B (R123). -/
def xtime (a : Byte) : Byte := (a <<< 1) ^^^ (if a.getLsbD 7 then 0x1B else 0)

/-- Multiplication by 3 in GF(2^8) (R123). -/
def mul3 (a : Byte) : Byte := xtime a ^^^ a

/-- The product of two bytes in GF(2^8), by repeated doubling of the first factor (R123). The cipher
needs no product but those above; R124 speaks of inverses in this field. -/
def gfMul (a b : Byte) : Byte :=
  let term (k : Nat) (x : Byte) : Byte := if b.getLsbD k then x else 0
  let a1 := xtime a
  let a2 := xtime a1
  let a3 := xtime a2
  let a4 := xtime a3
  let a5 := xtime a4
  let a6 := xtime a5
  let a7 := xtime a6
  term 0 a ^^^ term 1 a1 ^^^ term 2 a2 ^^^ term 3 a3 ^^^ term 4 a4 ^^^ term 5 a5 ^^^ term 6 a6
    ^^^ term 7 a7

/-- The S-box table, one row of sixteen bytes per high nibble, column 0 first (R124). -/
def sboxRows : List Nat := [
  0x637C777BF26B6FC53001672BFED7AB76,
  0xCA82C97DFA5947F0ADD4A2AF9CA472C0,
  0xB7FD9326363FF7CC34A5E5F171D83115,
  0x04C723C31896059A071280E2EB27B275,
  0x09832C1A1B6E5AA0523BD6B329E32F84,
  0x53D100ED20FCB15B6ACBBE394A4C58CF,
  0xD0EFAAFB434D338545F9027F503C9FA8,
  0x51A3408F929D38F5BCB6DA2110FFF3D2,
  0xCD0C13EC5F974417C4A77E3D645D1973,
  0x60814FDC222A908846EEB814DE5E0BDB,
  0xE0323A0A4906245CC2D3AC629195E479,
  0xE7C8376D8DD54EA96C56F4EA657AAE08,
  0xBA78252E1CA6B4C6E8DD741F4BBD8B8A,
  0x703EB5664803F60E613557B986C11D9E,
  0xE1F8981169D98E949B1E87E9CE5528DF,
  0x8CA1890DBFE6426841992D0FB054BB16]

/-- SBOX[a]: row of the high nibble, column of the low nibble (R124). -/
def sbox (a : Byte) : Byte :=
  BitVec.ofNat 8 ((sboxRows.getD (a.toNat / 16) 0) >>> (8 * (15 - a.toNat % 16)))

/-- SubBytes (R125). -/
def subBytes (s : Block) : Block := ⟨s.c0.map sbox, s.c1.map sbox, s.c2.map sbox, s.c3.map sbox⟩

/-- ShiftRows: row `r` is rotated left by `r` positions (R126). -/
def shiftRows (s : Block) : Block :=
  ⟨⟨s.c0.b0, s.c1.b1, s.c2.b2, s.c3.b3⟩, ⟨s.c1.b0, s.c2.b1, s.c3.b2, s.c0.b3⟩,
   ⟨s.c2.b0, s.c3.b1, s.c0.b2, s.c1.b3⟩, ⟨s.c3.b0, s.c0.b1, s.c1.b2, s.c2.b3⟩⟩

/-- MixColumns on one column (R127). -/
def mixColumn (a : Quad) : Quad :=
  ⟨xtime a.b0 ^^^ mul3 a.b1 ^^^ a.b2 ^^^ a.b3,
   a.b0 ^^^ xtime a.b1 ^^^ mul3 a.b2 ^^^ a.b3,
   a.b0 ^^^ a.b1 ^^^ xtime a.b2 ^^^ mul3 a.b3,
   mul3 a.b0 ^^^ a.b1 ^^^ a.b2 ^^^ xtime a.b3⟩

/-- MixColumns (R127). -/
def mixColumns (s : Block) : Block :=
  ⟨mixColumn s.c0, mixColumn s.c1, mixColumn s.c2, mixColumn s.c3⟩

/-- AddRoundKey (R128). -/
def addRoundKey (s rk : Block) : Block := s.xor rk

/-- The round constants RCON[1] to RCON[10] (R129). -/
def rcon : List Byte := [0x01, 0x02, 0x04, 0x08, 0x10, 0x20, 0x40, 0x80, 0x1B, 0x36]

/-- RotWord (R130). -/
def rotWord (t : Quad) : Quad := ⟨t.b1, t.b2, t.b3, t.b0⟩

/-- SubWord (R130). -/
def subWord (t : Quad) : Quad := t.map sbox

/-- Four words of the key expansion from the four before them: the words `w[4r]` to `w[4r+3]`
from `w[4r-4]` to `w[4r-1]`, with `rc = RCON[r]` (R130). -/
def nextRoundKey (rc : Byte) (k : Block) : Block :=
  let t := subWord (rotWord k.c3)
  let w0 := k.c0.xor { t with b0 := t.b0 ^^^ rc }
  let w1 := k.c1.xor w0
  let w2 := k.c2.xor w1
  let w3 := k.c3.xor w2
  ⟨w0, w1, w2, w3⟩

/-- A round key and the ones that follow it, one per remaining round constant (R130). -/
def roundKeysFrom : List Byte → Block → List Block
  | [], k => [k]
  | rc :: rest, k => k :: roundKeysFrom rest (nextRoundKey rc k)

/-- The eleven round keys rk[0] to rk[10] (R130). -/
def roundKeys (k : Block) : List Block := roundKeysFrom rcon k

/-- The rounds of the cipher, one per round key; the last has no MixColumns (R131, R132). -/
def cipherRounds : List Block → Block → Block
  | [], s => s
  | [rk], s => addRoundKey (shiftRows (subBytes s)) rk
  | rk :: rest, s => cipherRounds rest (addRoundKey (mixColumns (shiftRows (subBytes s))) rk)

/-- `AES(K, X)` (R132). -/
def aes (k x : Block) : Block :=
  match roundKeys k with
  | [] => x
  | rk0 :: rest => cipherRounds rest (addRoundKey x rk0)

end Sys2Proof
end

