-- ==== Sys2Proof/Machine/Ops.lean ====
section
/-! DEFINITION. The named operations over memory and registers: the buffers (10_state.md R51, R52),
the host register map (10_state.md R21, R56; 20_memory.md R61, R62), how a command ends
(60_exceptions.md R290, R291, R301), the engine's events and the environment's answers
(20_memory.md R70 to R74), ticks (44_radio.md R254) and reset (70_reset_and_hazards.md R320). -/

namespace Sys2Proof.Machine

/-! ### The buffers -/

/-- The host address of PBUF[0] (20_memory.md R61). -/
def pbufBase : Nat := 0x0100

/-- The host address of FBUF[0] (20_memory.md R61). -/
def fbufBase : Nat := 0x0200

/-- Whether an address lies in PBUF or in FBUF (20_memory.md R61; 00_scope.md R8: PBUF_SIZE). -/
def inBuffers (p : Params) (a : Nat) : Bool :=
  (pbufBase ≤ a && a < pbufBase + p.pbufSize) || (fbufBase ≤ a && a < fbufBase + Config.fifoCap)

/-- The canonical form of memory: addresses strictly rising. An address that is not listed holds no
written byte, which no entry can equal. -/
abbrev Memory.wf (m : Memory) : Prop := m.cells.Pairwise fun x y => x.1 < y.1

/-- Every written byte lies in a buffer. -/
abbrev Memory.mapped (m : Memory) (p : Params) : Prop := ∀ c ∈ m.cells, inBuffers p c.1 = true

/-- The byte a list of cells holds for an address. -/
def lookupCell (a : Nat) : List Host.Cell → Option Byte
  | [] => none
  | c :: rest => if a = c.1 then some c.2 else lookupCell a rest

/-- A list of cells with the byte for an address written, in its place. -/
def insertCell (a : Nat) (v : Byte) : List Host.Cell → List Host.Cell
  | [] => [(a, v)]
  | c :: rest =>
    if a < c.1 then (a, v) :: c :: rest
    else if a = c.1 then (a, v) :: rest
    else c :: insertCell a v rest

/-- The byte last written at an address since reset, if any. -/
def Memory.find? (m : Memory) (a : Nat) : Option Byte := lookupCell a m.cells

/-- One byte written (00_scope.md R13: MemWrite). -/
def Memory.write (m : Memory) (a : Nat) (v : Byte) : Memory := ⟨insertCell a v m.cells⟩

/-- Consecutive bytes written, lowest address first. -/
def Memory.writeBytes : Memory → Nat → List Byte → Memory
  | m, _, [] => m
  | m, a, v :: rest => (m.write a v).writeBytes (a + 1) rest

/-- What a buffer address that nothing has written since reset reads as: a free value of its own for
every address and every reset (93_implementation_defined.md U7, U14). -/
def unwrittenByte (resets a : Nat) : Byte := Config.resetByte resets a

/-- One byte of the buffers (00_scope.md R13: MemRead). -/
def State.readByte (s : State) (a : Nat) : Byte := (s.mem.find? a).getD (unwrittenByte s.resets a)

/-- PBUF[k] (10_state.md R51). No byte is ever written at or beyond PBUF_SIZE, so there it is a free
value. DESIGN CHOICE, safe (assumption log 20). -/
def State.pbufByte (s : State) (k : Nat) : Byte := s.readByte (pbufBase + k)

/-- FBUF[k], `k < 64` (10_state.md R52). -/
def State.fbufByte (s : State) (k : Nat) : Byte := s.readByte (fbufBase + k)

/-- Memory replaced, all else unchanged. -/
def State.setMem (s : State) (m : Memory) : State := { s with mem := m }

/-- PBUF[0] and following written with a sequence of at most 255 bytes; a byte at or beyond PBUF_SIZE
has no place in the buffer and is dropped. DESIGN CHOICE, safe (assumption log 20). -/
def State.writePbuf (s : State) (bytes : List Byte) : State :=
  s.setMem (s.mem.writeBytes pbufBase (bytes.take s.params.pbufSize))

/-- FBUF[0] and following written with a sequence of at most 64 bytes. -/
def State.writeFbuf (s : State) (bytes : List Byte) : State :=
  s.setMem (s.mem.writeBytes fbufBase bytes)

/-! ### How a command ends: errors -/

/-- The code of an error kind (60_exceptions.md R290). -/
def ErrorKind.code : ErrorKind → Byte
  | .deviceNotDetected => 1
  | .unsupportedRegion => 2
  | .unsupportedDatarate => 3
  | .payloadTooLarge => 4
  | .sendTimeout => 5
  | .illegalCommand => 6
  | .notReady => 7

/-- A command ends: ERR takes its result code and nothing else changes (10_state.md R40). -/
def State.endWith (s : State) (code : Byte) : State := { s with err := code }

/-- `raise K` (00_scope.md R13; 60_exceptions.md R291): the engine's whole exception entry. ERR takes
the code, control stays with the host, and nothing is saved (R301). -/
def State.raise (s : State) (k : ErrorKind) : State := s.endWith k.code

/-- `done` (00_scope.md R13): the command ends with ERR 0. Starting the next command is the engine's
whole return from an error (60_exceptions.md R302). -/
def State.finish (s : State) : State := s.endWith 0

/-! ### Events and the environment's answers -/

/-- An event is appended to the trace (20_memory.md R74). -/
def State.emit (s : State) (e : Event) : State := { s with trace := s.trace ++ [e] }

/-- BusWrite (20_memory.md R70). -/
def State.busWrite (s : State) (a : BitVec 7) (v : Byte) : State := s.emit (.busWrite a v)

/-- The byte the transceiver answers to the next bus read: the first of the pending answers, or a
free value when none is pending (20_memory.md R71). -/
def State.busAnswer (s : State) : Byte := s.busAnswers.headD (Config.busAnswer s.asked)

/-- BusRead: the answer `s.busAnswer` is used up and the event is recorded (20_memory.md R71). -/
def State.busRead (s : State) (a : BitVec 7) : State :=
  { s with busAnswers := s.busAnswers.tail, asked := s.asked + 1 }.emit (.busRead a s.busAnswer)

/-- The transmit-complete bit the next sample finds: the first of the pending values, or a free value
when none is pending (44_radio.md R252). -/
def State.txDone (s : State) : Bool := s.txDoneAnswers.headD (Config.txDoneAnswer s.asked)

/-- SampleTxDone: the bit `s.txDone` is used up and the event is recorded (44_radio.md R252). -/
def State.sampleTxDone (s : State) : State :=
  { s with txDoneAnswers := s.txDoneAnswers.tail, asked := s.asked + 1 }.emit (.sampleTxDone s.txDone)

/-- The channel the next draw among `n > 0` gives, any number below `n`: the first of the pending
draws, or a free value when none is pending, brought into range (44_radio.md R246). -/
def State.draw (s : State) (n : Nat) : Nat := s.drawAnswers.headD (Config.drawAnswer s.asked) % n

/-- DrawChannel(n): the draw `s.draw n` is used up and the event is recorded (44_radio.md R246). -/
def State.drawChannel (s : State) (n : Nat) : State :=
  { s with drawAnswers := s.drawAnswers.tail, asked := s.asked + 1 }.emit (.drawChannel n (s.draw n))

/-- The wait after a sample that ends nothing, a free value of at most T_POLL (44_radio.md R250). -/
def State.pollWait (s : State) : Nat := Config.pollDelay s.asked % (s.params.tPoll + 1)

/-- The bytes a bus event puts on the wire: the address byte with the high bit set for a write and
clear for a read, then the byte written (20_memory.md R70, R71). -/
def Event.wireBytes : Event → List Byte
  | .busWrite a v => [0x80 ||| a.zeroExtend 8, v]
  | .busRead a _ => [0x7F &&& a.zeroExtend 8]
  | .rstAssert => []
  | .rstRelease => []
  | .delay _ => []
  | .sampleTxDone _ => []
  | .drawChannel _ _ => []

/-! ### Ticks and reset -/

/-- A tick: ELAPSED counts up, saturating, while SEQ = S_POLL, and nothing changes otherwise
(10_state.md R46, 44_radio.md R254). -/
def State.tick (s : State) : State :=
  if s.seq = .sPoll then
    { s with elapsed := if s.elapsed = 0xFFFF then 0xFFFF else s.elapsed + 1 }
  else s

/-- RST_N: every register takes its reset value, both buffers' contents become free again, a running
command is abandoned, and no event is emitted (70_reset_and_hazards.md R320, R321, R322). What the
other agents will do and have seen is not the engine's and stays: DESIGN CHOICE, safe (assumption
log 12). -/
def State.resetEngine (s : State) : State :=
  { State.resetWith s.params with
    resets := s.resets + 1
    agenda := s.agenda
    busAnswers := s.busAnswers
    txDoneAnswers := s.txDoneAnswers
    drawAnswers := s.drawAnswers
    asked := s.asked
    trace := s.trace
    hostReads := s.hostReads }

/-! ### The host register map -/

/-- What stands at host addresses 0x0000 to 0x000F (10_state.md R21). -/
def locateLow : Nat → HostLoc
  | 0x00 => .cmd
  | 0x01 => .status
  | 0x02 => .err
  | 0x03 => .seq
  | 0x04 => .dir
  | 0x05 => .port
  | 0x06 => .fcntL
  | 0x07 => .fcntH
  | 0x08 => .plen
  | 0x09 => .blkidx
  | 0x0A => .mlen
  | 0x0B => .drsel
  | 0x0C => .chsel
  | 0x0D => .tmoL
  | 0x0E => .tmoH
  | _ => .region

/-- What stands at host addresses 0x0010 to 0x001F; 0x001B and 0x001F are unmapped
(10_state.md R21). -/
def locateMiddle : Nat → HostLoc
  | 0x10 => .devaddr 0
  | 0x11 => .devaddr 1
  | 0x12 => .devaddr 2
  | 0x13 => .devaddr 3
  | 0x14 => .flen
  | 0x15 => .fidx
  | 0x16 => .elapsedL
  | 0x17 => .elapsedH
  | 0x18 => .drcfg 0
  | 0x19 => .drcfg 1
  | 0x1A => .drcfg 2
  | 0x1C => .chcfg 0
  | 0x1D => .chcfg 1
  | 0x1E => .chcfg 2
  | _ => .unmapped

/-- What stands at host addresses 0x0020 to 0x00FF: the keys, KS and MIC (10_state.md R21). -/
def locateGroups (n : Nat) : HostLoc :=
  if n < 0x30 then .nwkskey (n - 0x20)
  else if n < 0x40 then .appskey (n - 0x30)
  else if n < 0x50 then .ks (n - 0x40)
  else if n < 0x54 then .mic (n - 0x50)
  else .unmapped

/-- What stands at host addresses from 0x0100 on: the two buffers (10_state.md R21). -/
def locateBuffers (n : Nat) : HostLoc :=
  if n < 0x1FF then .pbuf (n - 0x100)
  else if n < 0x200 then .unmapped
  else if n < 0x240 then .fbuf (n - 0x200)
  else .unmapped

/-- What stands at a host address (10_state.md R21, 20_memory.md R61). -/
def locate (a : BitVec 16) : HostLoc :=
  if a.toNat < 0x10 then locateLow a.toNat
  else if a.toNat < 0x20 then locateMiddle a.toNat
  else if a.toNat < 0x100 then locateGroups a.toNat
  else locateBuffers a.toNat

/-- The host address of a register or buffer byte (10_state.md R21); `k` is the byte's index. The
unmapped location stands for no one address; 0xFFFF is one of them. -/
def HostLoc.addr : HostLoc → BitVec 16
  | .cmd => 0x0000
  | .status => 0x0001
  | .err => 0x0002
  | .seq => 0x0003
  | .dir => 0x0004
  | .port => 0x0005
  | .fcntL => 0x0006
  | .fcntH => 0x0007
  | .plen => 0x0008
  | .blkidx => 0x0009
  | .mlen => 0x000A
  | .drsel => 0x000B
  | .chsel => 0x000C
  | .tmoL => 0x000D
  | .tmoH => 0x000E
  | .region => 0x000F
  | .devaddr k => BitVec.ofNat 16 (0x0010 + k)
  | .flen => 0x0014
  | .fidx => 0x0015
  | .elapsedL => 0x0016
  | .elapsedH => 0x0017
  | .drcfg k => BitVec.ofNat 16 (0x0018 + k)
  | .chcfg k => BitVec.ofNat 16 (0x001C + k)
  | .nwkskey k => BitVec.ofNat 16 (0x0020 + k)
  | .appskey k => BitVec.ofNat 16 (0x0030 + k)
  | .ks k => BitVec.ofNat 16 (0x0040 + k)
  | .mic k => BitVec.ofNat 16 (0x0050 + k)
  | .pbuf k => BitVec.ofNat 16 (0x0100 + k)
  | .fbuf k => BitVec.ofNat 16 (0x0200 + k)
  | .unmapped => 0xFFFF

/-- A host write to anything but CMD: a writable register takes the byte, a credential register only
while SESS = 0, an FBUF write also clears FVALID, and every other write is ignored (10_state.md R21,
R26, R27, R56; 20_memory.md R62). PBUF's address for a byte beyond PBUF_SIZE is unmapped: DESIGN
CHOICE, safe (assumption log 20). -/
def State.store (s : State) (loc : HostLoc) (v : Byte) : State :=
  match loc with
  | .cmd => s
  | .status => s
  | .err => s
  | .seq => s
  | .dir => { s with dir := v.getLsbD 0 }
  | .port => { s with port := v }
  | .fcntL => { s with fcnt := setLow s.fcnt v }
  | .fcntH => { s with fcnt := setHigh s.fcnt v }
  | .plen => { s with plen := v }
  | .blkidx => { s with blkidx := v }
  | .mlen => { s with mlen := v }
  | .drsel => { s with drsel := v }
  | .chsel => { s with chsel := v }
  | .tmoL => { s with tmo := setLow s.tmo v }
  | .tmoH => { s with tmo := setHigh s.tmo v }
  | .region => if s.sess then s else { s with region := v }
  | .devaddr k => if s.sess then s else { s with devaddr := setByte32 s.devaddr k v }
  | .flen => s
  | .fidx => s
  | .elapsedL => s
  | .elapsedH => s
  | .drcfg _ => s
  | .chcfg _ => s
  | .nwkskey k => if s.sess then s else { s with nwkskey := s.nwkskey.set k v }
  | .appskey k => if s.sess then s else { s with appskey := s.appskey.set k v }
  | .ks _ => s
  | .mic _ => s
  | .pbuf k => if k < s.params.pbufSize then s.setMem (s.mem.write (pbufBase + k) v) else s
  | .fbuf k => { s.setMem (s.mem.write (fbufBase + k) v) with fvalid := false }
  | .unmapped => s

end Sys2Proof.Machine
end

