-- ==== Sys2Proof/Machine/Flags.lean ====
section
/-! DEFINITION. The status view and the codes of MODE and SEQ (10_state.md R41, R42, R44), what a
host read returns (10_state.md R21, R56), and the conditions commands are checked against
(60_exceptions.md R296, 43_frame.md R202, 44_radio.md R253). -/

namespace Sys2Proof.Machine

/-- The encoding of MODE (10_state.md R42). -/
def RadioMode.code : RadioMode → BitVec 2
  | .sleep => 0
  | .standby => 1
  | .transmit => 2

/-- The code of a phase (10_state.md R44). -/
def Phase.code : Phase → Byte
  | .idle => 0x00
  | .iVer => 0x10
  | .iRstA => 0x11
  | .iRstB => 0x12
  | .iBase => 0x13
  | .sStdby => 0x20
  | .sChsel => 0x21
  | .sProg => 0x22
  | .sFifo => 0x23
  | .sTxgo => 0x24
  | .sPoll => 0x25
  | .sSleep => 0x26

/-- STATUS: bit 0 BUSY, 1 SESS, 2 READY, 3 FVALID, 4 CHMODE, 6:5 MODE, 7 TIMEDOUT
(10_state.md R41). -/
def State.status (s : State) : Byte :=
  BitVec.ofBool s.timedout ++ s.mode.code ++ BitVec.ofBool s.chmode ++ BitVec.ofBool s.fvalid
    ++ BitVec.ofBool s.ready ++ BitVec.ofBool s.sess ++ BitVec.ofBool s.busy

/-- The byte a host read returns: 0x00 at CMD, at the keys and at unmapped addresses
(10_state.md R21, R23, R24, R27, R56). PBUF's address for a byte beyond PBUF_SIZE is unmapped: DESIGN
CHOICE, safe (assumption log 20). -/
def State.load (s : State) : HostLoc → Byte
  | .cmd => 0
  | .status => s.status
  | .err => s.err
  | .seq => s.seq.code
  | .dir => if s.dir then 1 else 0
  | .port => s.port
  | .fcntL => byteAt s.fcnt 0
  | .fcntH => byteAt s.fcnt 1
  | .plen => s.plen
  | .blkidx => s.blkidx
  | .mlen => s.mlen
  | .drsel => s.drsel
  | .chsel => s.chsel
  | .tmoL => byteAt s.tmo 0
  | .tmoH => byteAt s.tmo 1
  | .region => s.region
  | .devaddr k => byteAt s.devaddr k
  | .flen => s.flen
  | .fidx => s.fidx
  | .elapsedL => byteAt s.elapsed 0
  | .elapsedH => byteAt s.elapsed 1
  | .drcfg k => s.drcfg.get k
  | .chcfg k => s.chcfg.get k
  | .nwkskey _ => 0
  | .appskey _ => 0
  | .ks k => s.ks.get k
  | .mic k => s.mic.get k
  | .pbuf k => if k < s.params.pbufSize then s.pbufByte k else 0
  | .fbuf k => s.fbufByte k
  | .unmapped => 0

/-- HostRead(a): the host sees the byte, and no engine state changes (20_memory.md R62, R66). -/
def State.hostRead (s : State) (a : BitVec 16) : State :=
  { s with hostReads := s.hostReads ++ [(a, s.load (locate a))] }

/-- SEND's three preconditions, tested together (60_exceptions.md R296, R297). -/
def State.sendReady (s : State) : Bool := s.ready && s.sess && s.fvalid

/-- The length of the frame BUILD would make, a natural number that does not wrap
(43_frame.md R202, R208). -/
def State.frameLength (s : State) : Nat := Config.hdrLen + s.plen.toNat + Config.micLen

/-- The timeout test `ELAPSED >= TMO`, unsigned (44_radio.md R253). -/
def State.timeoutReached (s : State) : Bool := s.tmo.toNat ≤ s.elapsed.toNat

end Sys2Proof.Machine
end

