-- ==== Sys2Proof/Machine/Operands.lean ====
section
/-! DEFINITION. The operands commands take from buffers and tables (30_encoding.md R93). Every
other operand is a register read as it stands. -/

namespace Sys2Proof.Machine

/-- The payload PBUF[0..PLEN-1] (10_state.md R29). -/
def State.payload (s : State) : List Byte := (List.range s.plen.toNat).map s.pbufByte

/-- The message FBUF[0..MLEN-1] (10_state.md R32). -/
def State.message (s : State) : List Byte := (List.range s.mlen.toNat).map s.fbufByte

/-- The frame FBUF[0..FLEN-1] (00_scope.md R17). -/
def State.frameBytes (s : State) : List Byte := (List.range s.flen.toNat).map s.fbufByte

/-- Whether REGION is a recognised region tag (10_state.md R25). -/
def State.regionKnown (s : State) : Bool := s.region.toNat < s.params.nRegion

/-- N_CH(REGION) (44_radio.md R238). -/
def State.channelCount (s : State) : Nat := s.params.nCh s.region.toNat

/-- CH_TABLE[REGION][k], where it exists (44_radio.md R238). -/
def State.channel? (s : State) (k : Nat) : Option Triple := s.params.channel? s.region.toNat k

/-- The triple of DR_TABLE[DRSEL], where it exists (44_radio.md R236). -/
def State.profile? (s : State) : Option Triple := s.params.profile? s.drsel.toNat

end Sys2Proof.Machine
end

