-- ==== Sys2Proof/Machine/Keystream.lean ====
section
/-! DEFINITION. The keystream generator: A_i, S_i, the payload transform, KSBLK and CRYPT
(41_keystream.md). -/

namespace Sys2Proof.Machine

/-- The direction byte of A_i (R151). -/
def dirByte (dir : Bool) : Byte := if dir then 0x01 else 0x00

/-- Bytes 6 to 13 of A_i and of B0: the device address, and the frame counter widened to 32 bits,
both least-significant byte first (R151, R157; 20_memory.md R64). -/
def nonceBytes (addr : BitVec 32) (fcnt : BitVec 16) : List Byte :=
  le32 addr ++ le32 (fcnt.zeroExtend 32)

/-- The keystream input block A(dir, addr, fcnt, i) (R151). -/
def blockA (p : Params) (dir : Bool) (addr : BitVec 32) (fcnt : BitVec 16) (i : Nat) : Block :=
  Block.ofList ([p.tagA, 0, 0, 0, 0, dirByte dir] ++ nonceBytes addr fcnt
    ++ [0, BitVec.ofNat 8 (i + p.ctrBase)])

/-- The keystream block S(key, dir, addr, fcnt, i) (R152). -/
def keystreamBlock (p : Params) (key : Block) (dir : Bool) (addr : BitVec 32) (fcnt : BitVec 16)
    (i : Nat) : Block :=
  aes key (blockA p dir addr fcnt i)

/-- The first `n` keystream blocks S_0, S_1, and so on, as one byte sequence (R150). -/
def keystream (p : Params) (key : Block) (dir : Bool) (addr : BitVec 32) (fcnt : BitVec 16)
    (n : Nat) : List Byte :=
  (List.range n).flatMap fun i => (keystreamBlock p key dir addr fcnt i).toList

/-- Crypt(key, dir, addr, fcnt, P): P exclusive-or the keystream of `ceil(n / 16)` blocks, truncated
to P's length (R154). -/
def cryptBytes (p : Params) (key : Block) (dir : Bool) (addr : BitVec 32) (fcnt : BitVec 16)
    (payload : List Byte) : List Byte :=
  List.zipWith (· ^^^ ·) payload (keystream p key dir addr fcnt ((payload.length + 15) / 16))

/-- KSBLK: one keystream block into KS (R153). -/
def execKsblk (s : State) : Host.Outcome State Fault Refusal :=
  if s.sess then
    .next { s with
      ks := keystreamBlock s.params s.appskey s.dir s.devaddr s.fcnt s.blkidx.toNat }.finish
  else .next (s.raise .notReady)

/-- CRYPT: encrypt or decrypt PBUF[0..PLEN-1] in place (R155). -/
def execCrypt (s : State) : Host.Outcome State Fault Refusal :=
  if s.sess then
    .next (s.writePbuf (cryptBytes s.params s.appskey s.dir s.devaddr s.fcnt s.payload)).finish
  else .next (s.raise .notReady)

end Sys2Proof.Machine
end

