-- ==== Sys2Proof/Machine/Integrity.lean ====
section
/-! DEFINITION. The integrity-code generator: AES-CMAC, B0, the 4-byte code and MICGEN
(42_integrity.md). -/

namespace Sys2Proof.Machine

/-- `pad(Z)` for a sequence of at most 15 bytes: Z, then 0x80, then zeros (R175). -/
def padBytes (z : List Byte) : List Byte := z ++ 0x80 :: List.replicate (15 - z.length) 0

/-- The 128-bit number whose most significant byte is byte 0 of a block (R177). -/
def blockNumber (v : Block) : BitVec 128 :=
  v.c0.b0 ++ v.c0.b1 ++ v.c0.b2 ++ v.c0.b3 ++ v.c1.b0 ++ v.c1.b1 ++ v.c1.b2 ++ v.c1.b3
    ++ v.c2.b0 ++ v.c2.b1 ++ v.c2.b2 ++ v.c2.b3 ++ v.c3.b0 ++ v.c3.b1 ++ v.c3.b2 ++ v.c3.b3

/-- The block of a 128-bit number, most significant byte first (R177). -/
def numberBlock (w : BitVec 128) : Block :=
  ⟨⟨byteAt w 15, byteAt w 14, byteAt w 13, byteAt w 12⟩,
   ⟨byteAt w 11, byteAt w 10, byteAt w 9, byteAt w 8⟩,
   ⟨byteAt w 7, byteAt w 6, byteAt w 5, byteAt w 4⟩,
   ⟨byteAt w 3, byteAt w 2, byteAt w 1, byteAt w 0⟩⟩

/-- `dbl(V)`: shift left by one, and exclusive-or 0x87 into the last byte when the bit shifted out
was 1 (R177). -/
def double (v : Block) : Block :=
  let w := numberBlock (blockNumber v <<< 1)
  if (blockNumber v).getLsbD 127 then
    { w with c3 := { w.c3 with b3 := w.c3.b3 ^^^ 0x87 } }
  else w

/-- The subkey K1 (R177). -/
def subkey1 (k : Block) : Block := double (aes k Block.zero)

/-- The subkey K2 (R177). -/
def subkey2 (k : Block) : Block := double (subkey1 k)

/-- How many blocks CMAC cuts a message of `m` bytes into (R176). -/
def cmacBlocks (m : Nat) : Nat := if m = 0 then 1 else (m + 15) / 16

/-- The last block, complete under K1 or padded under K2 (R176). -/
def cmacLast (k : Block) (msg : List Byte) : Block :=
  let z := msg.drop (16 * (cmacBlocks msg.length - 1))
  if 0 < msg.length ∧ msg.length % 16 = 0 then (Block.ofList z).xor (subkey1 k)
  else (Block.ofList (padBytes z)).xor (subkey2 k)

/-- The chaining value after the blocks before the last (R176). -/
def cmacChain (k : Block) (msg : List Byte) : Block :=
  (List.range (cmacBlocks msg.length - 1)).foldl
    (fun x j => aes k (x.xor (Block.ofList ((msg.drop (16 * j)).take 16)))) Block.zero

/-- `CMAC(K, M)` (R176). -/
def cmac (k : Block) (msg : List Byte) : Block := aes k ((cmacChain k msg).xor (cmacLast k msg))

/-- The integrity block B0(addr, fcnt, mlen), as its sixteen bytes; its direction byte is the
constant 0 (R181; 90_conflicts.md C8). -/
def blockB0 (p : Params) (addr : BitVec 32) (fcnt : BitVec 16) (mlen : Byte) : List Byte :=
  [p.tagB, 0, 0, 0, 0, 0] ++ nonceBytes addr fcnt ++ [0, mlen]

/-- MIC4(key, addr, fcnt, M): the first four bytes of CMAC over B0 followed by M (R182). -/
def mic4 (p : Params) (key : Block) (addr : BitVec 32) (fcnt : BitVec 16) (msg : List Byte) : Quad :=
  (cmac key (blockB0 p addr fcnt (BitVec.ofNat 8 msg.length) ++ msg)).c0

/-- MICGEN: the integrity code of FBUF[0..MLEN-1] into MIC; a message longer than FBUF is refused
(R183). -/
def execMicgen (s : State) : Host.Outcome State Fault Refusal :=
  if s.sess then
    if s.mlen.toNat ≤ Config.fifoCap then
      .next { s with mic := mic4 s.params s.nwkskey s.devaddr s.fcnt s.message }.finish
    else .refused .messageLongerThanBuffer
  else .next (s.raise .notReady)

end Sys2Proof.Machine
end

