-- ==== Sys2Proof/Machine/Frame.lean ====
section
/-! DEFINITION. The frame serializer: the wire layout and BUILD (43_frame.md). -/

namespace Sys2Proof.Machine

/-- The nine header bytes: MAC header tag, device address, frame control 0, frame counter, port
(R201, R203). -/
def frameHeader (p : Params) (addr : BitVec 32) (port : Byte) (fcnt : BitVec 16) : List Byte :=
  [p.mhdr] ++ le32 addr ++ [0x00] ++ le16 fcnt ++ [port]

/-- Header and ciphertext, the bytes the integrity code covers (R203). The direction is the constant 0
(R203; 90_conflicts.md C8). -/
def frameBody (p : Params) (app : Block) (addr : BitVec 32) (port : Byte) (fcnt : BitVec 16)
    (payload : List Byte) : List Byte :=
  frameHeader p addr port fcnt ++ cryptBytes p app false addr fcnt payload

/-- The integrity code of a frame (R203). -/
def frameMic (p : Params) (app nwk : Block) (addr : BitVec 32) (port : Byte) (fcnt : BitVec 16)
    (payload : List Byte) : Quad :=
  mic4 p nwk addr fcnt (frameBody p app addr port fcnt payload)

/-- Frame(app, nwk, addr, port, fcnt, P) (R203). -/
def frame (p : Params) (app nwk : Block) (addr : BitVec 32) (port : Byte) (fcnt : BitVec 16)
    (payload : List Byte) : List Byte :=
  frameBody p app addr port fcnt payload ++ (frameMic p app nwk addr port fcnt payload).toList

/-- BUILD: build the uplink frame for the payload into FBUF; a frame longer than FIFO_CAP leaves no
valid frame and raises PayloadTooLarge (R202, R204). -/
def execBuild (s : State) : Host.Outcome State Fault Refusal :=
  if s.sess then
    if Config.fifoCap < s.frameLength then
      .next ({ s with fvalid := false, flen := 0 }.raise .payloadTooLarge)
    else
      .next { s.writeFbuf
                (frame s.params s.appskey s.nwkskey s.devaddr s.port s.fcnt s.payload) with
        mic := frameMic s.params s.appskey s.nwkskey s.devaddr s.port s.fcnt s.payload
        flen := BitVec.ofNat 8 s.frameLength
        fvalid := true }.finish
  else .next (s.raise .notReady)

end Sys2Proof.Machine
end

