-- ==== Sys2Proof/Machine/Radio.lean ====
section
/-! DEFINITION. The radio commands as the host issues them: RINIT, SETDR, SETCH and SEND
(44_radio.md). RINIT and SEND only start the sequencer here; Sequencer.lean takes their
micro-steps. -/

namespace Sys2Proof.Machine

/-- RINIT's issue step: ERR is not written yet (R230). -/
def execRinit (s : State) : Host.Outcome State Fault Refusal :=
  .next { s with busy := true, seq := .iVer }

/-- SETDR: select the data-rate profile DRSEL (R236). -/
def execSetdr (s : State) : Host.Outcome State Fault Refusal :=
  match s.profile? with
  | some t => .next { s with drcfg := t }.finish
  | none => .next (s.raise .unsupportedDatarate)

/-- SETCH: fix the single channel CHSEL; an index beyond the region's table is refused (R238). -/
def execSetch (s : State) : Host.Outcome State Fault Refusal :=
  if s.sess then
    match s.channel? s.chsel.toNat with
    | some t => .next { s with chcfg := t, chmode := true }.finish
    | none => .refused .channelIndexOutOfRange
  else .next (s.raise .notReady)

/-- SEND's issue step: the three preconditions, then the sequencer starts; ERR is not written yet
(R242). -/
def execSend (s : State) : Host.Outcome State Fault Refusal :=
  if s.sendReady then .next { s with busy := true, seq := .sStdby }
  else .next (s.raise .notReady)

end Sys2Proof.Machine
end

