-- ==== Sys2Proof/Machine/System.lean ====
section
/-! DEFINITION. The system commands NOP and LDSESS (45_system.md). -/

namespace Sys2Proof.Machine

/-- NOP: nothing but `ERR <- 0` (R281). -/
def execNop (s : State) : Host.Outcome State Fault Refusal := .next s.finish

/-- LDSESS: construct the session; a second one succeeds and changes nothing (R282). -/
def execLdsess (s : State) : Host.Outcome State Fault Refusal :=
  if s.sess then .next s.finish
  else if s.regionKnown then .next { s with sess := true }.finish
  else .next (s.raise .unsupportedRegion)

end Sys2Proof.Machine
end

