-- ==== Sys2Proof/Machine/Dispatch.lean ====
section
/-! DEFINITION. The meaning of each command at its issue, one arm per row of the opcode map
(30_encoding.md R90, R92). -/

namespace Sys2Proof.Machine

def exec (i : Instr) (s : State) : Host.Outcome State Fault Refusal :=
  match i with
  | .nop => Sys2Proof.Machine.execNop s
  | .ldsess => Sys2Proof.Machine.execLdsess s
  | .ksblk => Sys2Proof.Machine.execKsblk s
  | .crypt => Sys2Proof.Machine.execCrypt s
  | .micgen => Sys2Proof.Machine.execMicgen s
  | .build => Sys2Proof.Machine.execBuild s
  | .rinit => Sys2Proof.Machine.execRinit s
  | .setdr => Sys2Proof.Machine.execSetdr s
  | .setch => Sys2Proof.Machine.execSetch s
  | .send => Sys2Proof.Machine.execSend s

end Sys2Proof.Machine
end

