-- ==== Sys2Proof/Machine/Sequencer.lean ====
section
/-! DEFINITION. The micro-steps of RINIT and SEND, one per phase of SEQ (44_radio.md R231 to R233,
R243 to R255). -/

namespace Sys2Proof.Machine

/-- I_VER: read the version register and compare (R231). -/
def microVersion (s : State) : State :=
  let t := s.busRead s.params.regVersion
  if s.busAnswer = s.params.versionExpected then { t with seq := .iRstA }
  else { t with ready := false, busy := false, seq := .idle }.raise .deviceNotDetected

/-- I_RSTA: assert the transceiver's reset line, then the first delay (R232). -/
def microResetAssert (s : State) : State :=
  { (s.emit .rstAssert).emit (.delay s.params.tRst1) with seq := .iRstB }

/-- I_RSTB: release the transceiver's reset line, then the second delay (R232). -/
def microResetRelease (s : State) : State :=
  { (s.emit .rstRelease).emit (.delay s.params.tRst2) with fidx := 0, seq := .iBase }

/-- I_BASE: one baseline write, or the finishing step after the last one (R233). -/
def microBaseline (s : State) : State :=
  match s.params.baseline[s.fidx.toNat]? with
  | some w => { s.busWrite w.addr w.value with fidx := s.fidx + 1 }
  | none => { s with ready := true, mode := .sleep, busy := false, seq := .idle }.finish

/-- S_STDBY: command Standby (R243). -/
def microStandby (s : State) : State :=
  { s.busWrite s.params.regOpmode s.params.opmStdby with mode := .standby, seq := .sChsel }

/-- S_CHSEL: in multi-channel mode draw a channel of the region; in single-channel mode keep the one
SETCH chose (R244). -/
def microChannel (s : State) : Host.Outcome State Fault Refusal :=
  if s.chmode then .next { s with fidx := 0, seq := .sProg }
  else if s.channelCount = 0 then .fault .noChannelPlan
  else
    match s.channel? (s.draw s.channelCount) with
    | some triple => .next { s.drawChannel s.channelCount with chcfg := triple, fidx := 0, seq := .sProg }
    | none => .fault .noChannelPlan

/-- The configuration write of row `k` of R247's table. -/
def configurationWrite (s : State) : Nat → Option (BitVec 7 × Byte)
  | 0 => some (s.params.regFrf0, s.chcfg.e0)
  | 1 => some (s.params.regFrf1, s.chcfg.e1)
  | 2 => some (s.params.regFrf2, s.chcfg.e2)
  | 3 => some (s.params.regDr0, s.drcfg.e0)
  | 4 => some (s.params.regDr1, s.drcfg.e1)
  | 5 => some (s.params.regDr2, s.drcfg.e2)
  | 6 => some (s.params.regPaylen, s.flen)
  | _ => none

/-- S_PROG: one configuration write; row 6 is followed by S_FIFO (R247). -/
def microConfigure (s : State) : Host.Outcome State Fault Refusal :=
  match configurationWrite s s.fidx.toNat with
  | some w =>
    if s.fidx.toNat = 6 then .next { s.busWrite w.1 w.2 with fidx := 0, seq := .sFifo }
    else .next { s.busWrite w.1 w.2 with fidx := s.fidx + 1 }
  | none => .fault .configurationIndexOutOfRange

/-- S_FIFO: one frame byte into the transmit buffer, or on to S_TXGO after the last one (R248). -/
def microFifo (s : State) : Host.Outcome State Fault Refusal :=
  if s.fidx.toNat < s.flen.toNat then
    if s.fidx.toNat < Config.fifoCap then
      .next { s.busWrite s.params.regFifo (s.fbufByte s.fidx.toNat) with fidx := s.fidx + 1 }
    else .fault .frameIndexOutOfRange
  else .next { s with seq := .sTxgo }

/-- S_TXGO: command Transmit and clear the timer (R249). -/
def microTransmit (s : State) : State :=
  { s.busWrite s.params.regOpmode s.params.opmTx with
    mode := .transmit, elapsed := 0, timedout := false, seq := .sPoll }

/-- S_POLL: one poll iteration; the signal is tested before the time (R250). -/
def microPoll (s : State) : State :=
  let t := s.sampleTxDone
  if s.txDone then { t with seq := .sSleep }
  else if s.timeoutReached then { t with timedout := true, seq := .sSleep }
  else t.emit (.delay s.pollWait)

/-- S_SLEEP: command Sleep, discard the frame, and report (R255). -/
def microSleep (s : State) : State :=
  let t := { s.busWrite s.params.regOpmode s.params.opmSleep with
    mode := .sleep, fvalid := false, busy := false, seq := .idle }
  if s.timedout then t.raise .sendTimeout else t.finish

/-- The engine's turn: the micro-step SEQ names, or waiting in IDLE (10_state.md R44). -/
def engineTurn (s : State) : Host.Outcome State Fault Refusal :=
  match s.seq with
  | .idle => .next s
  | .iVer => .next (microVersion s)
  | .iRstA => .next (microResetAssert s)
  | .iRstB => .next (microResetRelease s)
  | .iBase => .next (microBaseline s)
  | .sStdby => .next (microStandby s)
  | .sChsel => microChannel s
  | .sProg => microConfigure s
  | .sFifo => microFifo s
  | .sTxgo => .next (microTransmit s)
  | .sPoll => .next (microPoll s)
  | .sSleep => .next (microSleep s)

end Sys2Proof.Machine
end

