-- ==== Sys2Proof/Machine/Issue.lean ====
section
/-! DEFINITION. How a command is issued and what each agent's turn does (30_encoding.md R90, R94;
20_memory.md R62; 00_scope.md R15). -/

namespace Sys2Proof.Machine

/-- The byte `c` is issued as a command: decoded and performed, or, when it is reserved, ended at once
with IllegalCommand (30_encoding.md R90, R94; 60_exceptions.md R295). -/
def issueCommand (c : Byte) (s : State) : Host.Outcome State Fault Refusal :=
  match decode [c] with
  | .ok (i, _) => exec i s
  | .error _ => .next (s.raise .illegalCommand)

/-- HostWrite(a, v): refused while BUSY = 1, a command at CMD, a register or buffer write elsewhere
(20_memory.md R62, 10_state.md R43). -/
def hostWrite (a : BitVec 16) (v : Byte) (s : State) : Host.Outcome State Fault Refusal :=
  if s.busy then .refused .hostWriteWhileBusy
  else
    match locate a with
    | .cmd => issueCommand v s
    | loc => .next (s.store loc v)

/-- One agent's turn (00_scope.md R15). -/
def takeTurn (t : Turn) (s : State) : Host.Outcome State Fault Refusal :=
  match t with
  | .hostWrite a v => hostWrite a v s
  | .hostRead a => .next (s.hostRead a)
  | .tick => .next s.tick
  | .resetPin => .next s.resetEngine
  | .engine => engineTurn s

/-- One step of the whole: the next pending turn is taken off the agenda and performed; with nothing
pending the engine goes on by itself. DESIGN CHOICE, safe (assumption log 2). -/
def advance (s : State) : Host.Outcome State Fault Refusal :=
  match s.agenda with
  | [] => engineTurn s
  | t :: rest => takeTurn t { s with agenda := rest }

/-- A host write of byte `c` to CMD put before every other pending turn, with the engine idle so that
it can be issued (30_encoding.md R90: BUSY = 0; 10_state.md R44: SEQ = IDLE exactly then). DESIGN
CHOICE, unsafe for a busy state (assumption log 8). -/
def State.withCommand (s : State) (c : Byte) : State :=
  { s with busy := false, seq := .idle, agenda := .hostWrite 0x0000 c :: s.agenda }

end Sys2Proof.Machine
end

