-- ==== Sys2Proof/Machine/Step.lean ====
section
/-! DEFINITION. One step of the machine, and the word the machine takes next. -/

namespace Sys2Proof.Machine

/-- One step: one agent's turn, or the engine's own (00_scope.md R15; 92_eei_decisions.md D1). -/
def step (s : State) : Host.Outcome State Fault Refusal := advance s

/-- The state with the command byte of an instruction word as the host's very next write to CMD. -/
def State.withFetchWord (s : State) (nbits w : Nat) : State := s.withCommand (tableByte nbits w)

end Sys2Proof.Machine
end

