-- ==== Sys2Proof/Machine/Assembler.lean ====
section
/-! DEFINITION. The spec's notation for host programs and the host accesses each statement stands for
(30_encoding.md R96, R97, R98). It is notation: the machine sees only the accesses. -/

namespace Sys2Proof.Machine

/-- A statement of a host program (30_encoding.md R96, R97). What the host sees while it runs decides
how often WAIT reads and whether UPLINK goes on, so those statements carry it: DESIGN CHOICE, safe
(assumption log 15). -/
inductive Statement where
  /-- `WR name, v`. -/
  | wr (name : HostLoc) (v : Byte)
  /-- `RD name`. -/
  | rd (name : HostLoc)
  /-- A mnemonic: issue the command. -/
  | command (i : Instr)
  /-- `WAIT`, whose reads of STATUS find BUSY = 1 `busyReads` times and then 0. -/
  | wait (busyReads : Nat)
  /-- `WR16 FCNT, v`. -/
  | wr16Fcnt (v : BitVec 16)
  /-- `WR16 TMO, v`. -/
  | wr16Tmo (v : BitVec 16)
  /-- `LDADDR v`. -/
  | ldaddr (v : BitVec 32)
  /-- `LDKEY NWK, b0 .. b15`. -/
  | ldkeyNwk (key : Block)
  /-- `LDKEY APP, b0 .. b15`. -/
  | ldkeyApp (key : Block)
  /-- `LDPAY b0 .. b(n-1)`, at most 255 bytes. -/
  | ldpay (bytes : List Byte)
  /-- `LDFRM b0 .. b(n-1)`, at most 64 bytes. -/
  | ldfrm (bytes : List Byte)
  /-- `UPLINK`, whose first `RD ERR` reads `buildErr`, and whose WAIT, if it comes to that, finds
  BUSY = 1 `busyReads` times. -/
  | uplink (buildErr : Byte) (busyReads : Nat)
deriving DecidableEq, Repr

/-- `HostWrite(addr(name), v)` (R96). -/
def writeTo (name : HostLoc) (v : Byte) : Turn := .hostWrite name.addr v

/-- `HostRead(addr(name))` (R96). -/
def readFrom (name : HostLoc) : Turn := .hostRead name.addr

/-- The command byte written to CMD (R96, R90). -/
def issueOf (i : Instr) : Turn := writeTo .cmd (encodeByte i)

/-- `WAIT`: STATUS is read until bit 0 is 0 (R96). -/
def waitReads (busyReads : Nat) : List Turn := List.replicate (busyReads + 1) (readFrom .status)

/-- Bytes written to the consecutive bytes of a location, index 0 first (R97). -/
def writeSeries (loc : Nat → HostLoc) (bytes : List Byte) : List Turn :=
  bytes.mapIdx fun k v => writeTo (loc k) v

/-- The host accesses a statement expands to, in order (R96, R97). -/
def Statement.accesses : Statement → List Turn
  | .wr name v => [writeTo name v]
  | .rd name => [readFrom name]
  | .command i => [issueOf i]
  | .wait n => waitReads n
  | .wr16Fcnt v => [writeTo .fcntL (byteAt v 0), writeTo .fcntH (byteAt v 1)]
  | .wr16Tmo v => [writeTo .tmoL (byteAt v 0), writeTo .tmoH (byteAt v 1)]
  | .ldaddr v => writeSeries .devaddr (le32 v)
  | .ldkeyNwk key => writeSeries .nwkskey key.toList
  | .ldkeyApp key => writeSeries .appskey key.toList
  | .ldpay bytes => writeSeries .pbuf bytes ++ [writeTo .plen (BitVec.ofNat 8 bytes.length)]
  | .ldfrm bytes => writeSeries .fbuf bytes ++ [writeTo .mlen (BitVec.ofNat 8 bytes.length)]
  | .uplink buildErr n =>
    [issueOf .build, readFrom .err]
      ++ (if buildErr = 0 then [issueOf .send] ++ waitReads n ++ [readFrom .err] else [])

/-- The encoding of a program: the host accesses its statements expand to (R98). -/
def programAccesses (p : List Statement) : List Turn := p.flatMap Statement.accesses

end Sys2Proof.Machine
end

