-- ==== Sys2Proof/Safety.lean ====
section
/-! DEFINITION. What a sound state of the engine is, and what a safe step is, in the terms the
statements use. -/

namespace Sys2Proof.Machine

/-- The mode the engine has commanded when a phase is next (44_radio.md R221, R233, R243, R249,
R255). -/
def Phase.commandedMode : Phase → RadioMode
  | .idle => .sleep
  | .iVer => .sleep
  | .iRstA => .sleep
  | .iRstB => .sleep
  | .iBase => .sleep
  | .sStdby => .sleep
  | .sChsel => .standby
  | .sProg => .standby
  | .sFifo => .standby
  | .sTxgo => .standby
  | .sPoll => .transmit
  | .sSleep => .transmit

/-- Whether a phase belongs to SEND (10_state.md R44). -/
def Phase.ofSend : Phase → Bool
  | .idle => false
  | .iVer => false
  | .iRstA => false
  | .iRstB => false
  | .iBase => false
  | .sStdby => true
  | .sChsel => true
  | .sProg => true
  | .sFifo => true
  | .sTxgo => true
  | .sPoll => true
  | .sSleep => true

/-- What holds of every state the engine reaches from reset, whatever the other agents do. -/
structure State.Inv (s : State) : Prop where
  /-- SEQ = IDLE exactly when BUSY = 0 (10_state.md R44). -/
  busy_iff : s.busy = false ↔ s.seq = .idle
  /-- MODE is the mode commanded by the phases so far; in particular Sleep while BUSY = 0
  (44_radio.md R221, R224). -/
  mode_eq : s.mode = s.seq.commandedMode
  /-- A session's region is a recognised one (45_system.md R282, 10_state.md R26). -/
  region_known : s.sess = true → s.regionKnown = true
  /-- A frame has at most FIFO_CAP bytes (43_frame.md R202). -/
  frame_fits : s.flen.toNat ≤ Config.fifoCap
  /-- A valid frame has at least 13 bytes (43_frame.md R202). -/
  frame_whole : s.fvalid = true → 13 ≤ s.flen.toNat
  /-- A SEND under way still has what its preconditions asked for (44_radio.md R242). -/
  send_ready : s.seq.ofSend = true → s.sendReady = true
  /-- FIDX is a row of the configuration table in S_PROG (44_radio.md R247). -/
  prog_index : s.seq = .sProg → s.fidx.toNat ≤ 6
  /-- FIDX is at most FLEN in S_FIFO (44_radio.md R248). -/
  fifo_index : s.seq = .sFifo → s.fidx.toNat ≤ s.flen.toNat
  /-- TIMEDOUT is 0 while polling (44_radio.md R249, R250). -/
  poll_running : s.seq = .sPoll → s.timedout = false
  /-- ERR holds a code of the table (60_exceptions.md R290). -/
  err_known : s.err.toNat ≤ 7
  /-- The buffers' memory is in canonical form. -/
  mem_wf : s.mem.wf
  /-- Only buffer bytes are ever written (20_memory.md R61). -/
  mem_mapped : s.mem.mapped s.params

/-- `k` steps of the machine, stopping at the first fault or refusal. -/
def runSteps : Nat → State → Host.Outcome State Fault Refusal
  | 0, s => .next s
  | k + 1, s =>
    match step s with
    | .next t => runSteps k t
    | .fault f => .fault f
    | .refused r => .refused r

/-- The events of the seven configuration writes of a SEND (44_radio.md R247). -/
def configurationEvents (p : Params) (ch dr : Triple) (n : Byte) : List Event :=
  [.busWrite p.regFrf0 ch.e0, .busWrite p.regFrf1 ch.e1, .busWrite p.regFrf2 ch.e2,
   .busWrite p.regDr0 dr.e0, .busWrite p.regDr1 dr.e1, .busWrite p.regDr2 dr.e2,
   .busWrite p.regPaylen n]

/-- The events of loading frame bytes into the transmit buffer (44_radio.md R248). -/
def fifoEvents (p : Params) (frame : List Byte) : List Event := frame.map (.busWrite p.regFifo)

/-- The events of RINIT's baseline writes (44_radio.md R233). -/
def baselineEvents (p : Params) : List Event := p.baseline.map fun w => .busWrite w.addr w.value

/-- The events of poll iterations that end nothing, one wait after each sample (44_radio.md R250). -/
def pollEvents (waits : List Nat) : List Event := waits.flatMap fun w => [.sampleTxDone false, .delay w]

/-- The event trace of a SEND that ends by the signal (44_radio.md R242): Standby, the channel draw if
there is one, the configuration writes, the frame's bytes, Transmit, the polls, and Sleep. -/
def sendEvents (p : Params) (draws : List Event) (ch dr : Triple) (n : Byte) (frame : List Byte)
    (waits : List Nat) : List Event :=
  [.busWrite p.regOpmode p.opmStdby] ++ draws ++ configurationEvents p ch dr n ++ fifoEvents p frame
    ++ [.busWrite p.regOpmode p.opmTx] ++ pollEvents waits
    ++ [.sampleTxDone true, .busWrite p.regOpmode p.opmSleep]

/-- The next turn is the engine's: no other agent's turn comes before it (00_scope.md R15). -/
abbrev State.engineNext (s : State) : Prop := s.agenda = [] ∨ s.agenda.head? = some .engine

/-- A safe step: it does not end in a fault. -/
def State.stepsSafely (s : State) : Prop := ∀ f, step s ≠ .fault f

end Sys2Proof.Machine
end

