-- ==== Sys2Proof/Certificates/Slice0/Obligations.lean ====
section
/-! DEFINITION. The statements for the provers. Each says in its docstring which rules of spec/ it
speaks for. A register named in a record update is changed as written; every other field of the
state, memory included, is then unchanged. -/

open Sys2Proof Sys2Proof.Machine

/-! ## Decoding and encoding -/

/-- 30_encoding.md R92: the ten bytes of the opcode map, each with its command, and every other byte
decodes to none. -/
def Obligations.OpcodeMapIsExactlyTheTable : Prop :=
  ∀ (c : Byte) (i : Instr), decodeByte c = .ok i ↔
    (c, i) ∈ [((0x00 : Byte), Instr.nop), (0x01, .ldsess), (0x10, .ksblk), (0x11, .crypt),
      (0x20, .micgen), (0x30, .build), (0x40, .rinit), (0x41, .setdr), (0x42, .setch), (0x43, .send)]

/-- 30_encoding.md R91, R92, R98: a sequence of commands decodes back from its bytes, and no other
byte sequence decodes to it. -/
def Obligations.CommandSequencesDecodeBack : Prop :=
  ∀ (bytes : List Byte) (is : List Instr), decodeAll bytes = .ok is ↔ bytes = is.flatMap encode

/-- 30_encoding.md R94, 60_exceptions.md R295: a reserved byte written to CMD while BUSY = 0 ends with
ERR 6 and changes nothing else. -/
def Obligations.ReservedByteIsIllegalCommand : Prop :=
  ∀ (s : State) (c : Byte) (rest : List Turn), s.agenda = .hostWrite 0x0000 c :: rest →
    s.busy = false →
    c ∉ [(0x00 : Byte), 0x01, 0x10, 0x11, 0x20, 0x30, 0x40, 0x41, 0x42, 0x43] →
    step s = .next { s with agenda := rest, err := 6 }

/-- 30_encoding.md R90, 20_memory.md R62: a command byte written to CMD while BUSY = 0 performs the
command it decodes to, on the state without that write. -/
def Obligations.StepRunsTheDecodedCommand : Prop :=
  ∀ (s : State) (c : Byte) (rest : List Turn) (i : Instr), s.agenda = .hostWrite 0x0000 c :: rest →
    s.busy = false → decode [c] = .ok (i, []) → step s = exec i { s with agenda := rest }

/-! ## The system commands -/

/-- 45_system.md R281. -/
def Obligations.NopOnlyClearsErr : Prop :=
  encodeByte .nop = 0x00 ∧ ∀ s : State, exec .nop s = .next { s with err := 0 }

/-- 45_system.md R282, 60_exceptions.md R291: the session is constructed for a recognised region; an
unrecognised one is rejected with UnsupportedRegion and nothing else changes; a second LDSESS succeeds
and changes nothing. -/
def Obligations.LdsessConstructsTheSession : Prop :=
  encodeByte .ldsess = 0x01 ∧ ∀ s : State,
    (s.sess = false → s.region.toNat < s.params.nRegion →
      exec .ldsess s = .next { s with sess := true, err := 0 }) ∧
    (s.sess = false → s.params.nRegion ≤ s.region.toNat → exec .ldsess s = .next { s with err := 2 }) ∧
    (s.sess = true → exec .ldsess s = .next { s with err := 0 })

/-- 60_exceptions.md R296, R297: without a session the commands that need one end with NotReady and
change nothing else, whatever their operands are; SEND also when READY or FVALID is 0. -/
def Obligations.NotReadyChangesOnlyErr : Prop :=
  ∀ s : State,
    (s.sess = false → ∀ i ∈ [Instr.ksblk, .crypt, .micgen, .build, .setch, .send],
      exec i s = .next { s with err := 7 }) ∧
    (s.ready = false ∨ s.fvalid = false → exec .send s = .next { s with err := 7 })

/-! ## The cipher -/

/-- 40_aes128.md R124: the S-box is the affine map of the inverse in the field of R123, with the
inverse of 0 taken as 0, and it is a permutation. -/
def Obligations.SBoxIsTheAffineInverse : Prop :=
  (∀ a : Byte, ∃ b : Byte, (a = 0 → b = 0) ∧ (a ≠ 0 → gfMul a b = 1) ∧
    sbox a = b ^^^ b.rotateLeft 1 ^^^ b.rotateLeft 2 ^^^ b.rotateLeft 3 ^^^ b.rotateLeft 4 ^^^ 0x63) ∧
  Function.Bijective sbox

/-- 40_aes128.md R126, R127, on the byte order of R122: row `r` of the state is rotated left by `r`
positions, and each column is multiplied by the matrix of R127, with the products of R123. -/
def Obligations.RowsRotateAndColumnsMix : Prop :=
  (∀ a : Byte, gfMul a 1 = a ∧
    gfMul a 2 = (if a.getLsbD 7 then (a <<< 1) ^^^ 0x1B else a <<< 1) ∧
    gfMul a 3 = gfMul a 2 ^^^ a) ∧
  (∀ (s : Block) (r c : Nat), r < 4 → c < 4 →
    (shiftRows s).get (r + 4 * c) = s.get (r + 4 * ((c + r) % 4))) ∧
  ∀ (s : Block) (c : Nat), c < 4 →
    let a0 := s.get (4 * c)
    let a1 := s.get (4 * c + 1)
    let a2 := s.get (4 * c + 2)
    let a3 := s.get (4 * c + 3)
    (mixColumns s).get (4 * c) = gfMul a0 2 ^^^ gfMul a1 3 ^^^ a2 ^^^ a3 ∧
    (mixColumns s).get (4 * c + 1) = a0 ^^^ gfMul a1 2 ^^^ gfMul a2 3 ^^^ a3 ∧
    (mixColumns s).get (4 * c + 2) = a0 ^^^ a1 ^^^ gfMul a2 2 ^^^ gfMul a3 3 ∧
    (mixColumns s).get (4 * c + 3) = gfMul a0 3 ^^^ a1 ^^^ a2 ^^^ gfMul a3 2

/-- 40_aes128.md R129, R130: the eleven round keys are the 44 words of the expansion, word `i` made
from words `i - 1` and `i - 4`; every fourth time the round constant of R129 comes in, which starts at
1 and doubles in the field of R123. -/
def Obligations.KeyExpansionFollowsItsRecurrence : Prop :=
  let constants : List Byte := [0x01, 0x02, 0x04, 0x08, 0x10, 0x20, 0x40, 0x80, 0x1B, 0x36]
  (∀ (j : Nat) (x y : Byte), constants[j]? = some x → constants[j + 1]? = some y → y = gfMul x 2) ∧
  ∀ (k : Block), (roundKeys k).length = 11 ∧ (roundKeys k)[0]? = some k ∧
    ∀ i : Nat, 4 ≤ i → i < 44 → ∃ (rk rk1 rk4 : Block) (rc : Byte),
      (roundKeys k)[i / 4]? = some rk ∧ (roundKeys k)[(i - 1) / 4]? = some rk1 ∧
      (roundKeys k)[(i - 4) / 4]? = some rk4 ∧ constants[i / 4 - 1]? = some rc ∧
      let prev := rk1.col ((i - 1) % 4)
      let rotated : Quad := ⟨sbox prev.b1 ^^^ rc, sbox prev.b2, sbox prev.b3, sbox prev.b0⟩
      rk.col (i % 4) = (rk4.col ((i - 4) % 4)).xor (if i % 4 = 0 then rotated else prev)

/-- 40_aes128.md R125, R128, R131, R132: SubBytes and AddRoundKey byte by byte, and the whole cipher:
AddRoundKey with rk[0], nine rounds of SubBytes, ShiftRows, MixColumns and AddRoundKey, and a tenth
round without MixColumns. -/
def Obligations.CipherIsItsTenRounds : Prop :=
  (∀ (s rk : Block) (k : Nat), k < 16 →
    (subBytes s).get k = sbox (s.get k) ∧ (addRoundKey s rk).get k = s.get k ^^^ rk.get k) ∧
  ∀ k x : Block, ∃ rk : Nat → Block, (∀ r, r ≤ 10 → (roundKeys k)[r]? = some (rk r)) ∧
    let round (s : Block) (r : Nat) : Block := addRoundKey (mixColumns (shiftRows (subBytes s))) (rk r)
    let nine := [1, 2, 3, 4, 5, 6, 7, 8, 9].foldl round (addRoundKey x (rk 0))
    aes k x = addRoundKey (shiftRows (subBytes nine)) (rk 10)

/-- 40_aes128.md R133: for a fixed key the cipher is a bijection on blocks. -/
def Obligations.CipherIsABijection : Prop := ∀ k : Block, Function.Bijective (aes k)

/-! ## The keystream generator -/

/-- 41_keystream.md R151: the sixteen bytes of A_i, and the defaults of its two parameters. -/
def Obligations.KeystreamInputBlockLayout : Prop :=
  (∀ (p : Params) (dir : Bool) (addr : BitVec 32) (fcnt : BitVec 16) (i : Nat),
    (blockA p dir addr fcnt i).toList =
      [p.tagA, 0x00, 0x00, 0x00, 0x00, if dir then 0x01 else 0x00,
       addr.extractLsb' 0 8, addr.extractLsb' 8 8, addr.extractLsb' 16 8, addr.extractLsb' 24 8,
       fcnt.extractLsb' 0 8, fcnt.extractLsb' 8 8, 0x00, 0x00, 0x00,
       BitVec.ofNat 8 ((i + p.ctrBase) % 256)]) ∧
  Config.params.tagA = 0x01 ∧ Config.params.ctrBase = 0

/-- 41_keystream.md R152, R153: KSBLK's encoding, precondition, result and frame. -/
def Obligations.KsblkMakesOneKeystreamBlock : Prop :=
  encodeByte .ksblk = 0x10 ∧ ∀ s : State,
    (s.sess = false → exec .ksblk s = .next { s with err := 7 }) ∧
    (s.sess = true → exec .ksblk s = .next { s with
      ks := aes s.appskey (blockA s.params s.dir s.devaddr s.fcnt s.blkidx.toNat), err := 0 })

/-- 41_keystream.md R154: byte `j` of the transform. -/
def Obligations.TransformXorsTheKeystream : Prop :=
  ∀ (p : Params) (key : Block) (dir : Bool) (addr : BitVec 32) (fcnt : BitVec 16) (plain : List Byte),
    (cryptBytes p key dir addr fcnt plain).length = plain.length ∧
    ∀ (j : Nat) (b : Byte), plain[j]? = some b →
      (cryptBytes p key dir addr fcnt plain)[j]? =
        some (b ^^^ (aes key (blockA p dir addr fcnt (j / 16))).get (j % 16))

/-- 41_keystream.md R156: the transform is its own inverse. -/
def Obligations.TransformIsAnInvolution : Prop :=
  ∀ (p : Params) (key : Block) (dir : Bool) (addr : BitVec 32) (fcnt : BitVec 16) (plain : List Byte),
    cryptBytes p key dir addr fcnt (cryptBytes p key dir addr fcnt plain) = plain

/-- 41_keystream.md R155: CRYPT's encoding, precondition, result in PBUF and frame, for a payload that
PBUF has room for; with the PBUF_SIZE of 10_state.md R51 that is every payload. -/
def Obligations.CryptTransformsThePayloadInPlace : Prop :=
  encodeByte .crypt = 0x11 ∧ ∀ s : State,
    (s.sess = false → exec .crypt s = .next { s with err := 7 }) ∧
    (s.sess = true → s.plen.toNat ≤ s.params.pbufSize → ∃ t, exec .crypt s = .next t ∧
      (∀ j, j < s.plen.toNat → t.pbufByte j =
        s.pbufByte j ^^^ (aes s.appskey (blockA s.params s.dir s.devaddr s.fcnt (j / 16))).get (j % 16)) ∧
      (∀ a, a < pbufBase ∨ pbufBase + s.plen.toNat ≤ a → t.readByte a = s.readByte a) ∧
      { t with mem := s.mem } = { s with err := 0 })

/-- 41_keystream.md R156 on the machine: CRYPT issued twice restores every byte of both buffers. For a
PBUF_SIZE below PLEN this rests on the model's choice (assumption log 20). -/
def Obligations.CryptTwiceRestoresTheBuffers : Prop :=
  ∀ s : State, s.sess = true → ∃ t u, exec .crypt s = .next t ∧ exec .crypt t = .next u ∧
    (∀ a, u.readByte a = s.readByte a) ∧ { u with mem := s.mem } = { s with err := 0 }

/-- 41_keystream.md R159: under one key, address, counter and direction, two keystream blocks are
equal exactly when their indices agree modulo 256. -/
def Obligations.KeystreamBlocksRepeatEvery256 : Prop :=
  ∀ (p : Params) (key : Block) (dir : Bool) (addr : BitVec 32) (fcnt : BitVec 16) (i j : Nat),
    keystreamBlock p key dir addr fcnt i = keystreamBlock p key dir addr fcnt j ↔ i % 256 = j % 256

/-! ## The integrity-code generator -/

/-- 42_integrity.md R177: doubling byte by byte, and the two subkeys. -/
def Obligations.SubkeysAreDoublings : Prop :=
  (∀ v : Block,
    (∀ k, k < 15 → (double v).get k = (v.get k <<< 1) ||| (v.get (k + 1) >>> 7)) ∧
    (double v).get 15 = (if (v.get 0).getLsbD 7 then (v.get 15 <<< 1) ^^^ 0x87 else v.get 15 <<< 1)) ∧
  ∀ k : Block, subkey1 k = double (aes k Block.zero) ∧ subkey2 k = double (subkey1 k)

/-- 42_integrity.md R175, R176: CMAC of a message cut into full blocks `bs` and a last part `z` of 0 to
16 bytes, complete under K1 or padded under K2. -/
def Obligations.CmacChainsTheMessageBlocks : Prop :=
  ∀ (k : Block) (bs : List Block) (z : List Byte),
    let chain := bs.foldl (fun x b => aes k (x.xor b)) Block.zero
    (z.length = 16 →
      cmac k (bs.flatMap Block.toList ++ z) = aes k (chain.xor ((Block.ofList z).xor (subkey1 k)))) ∧
    (z.length < 16 → (z = [] → bs = []) →
      cmac k (bs.flatMap Block.toList ++ z) =
        aes k (chain.xor ((Block.ofList (z ++ [0x80] ++ List.replicate (15 - z.length) 0)).xor (subkey2 k))))

/-- 42_integrity.md R181: the sixteen bytes of B0, its direction byte the constant 0 whatever the
parameters are, and the defaults of the tag and of DIR_UP. -/
def Obligations.IntegrityBlockLayout : Prop :=
  (∀ (p : Params) (addr : BitVec 32) (fcnt : BitVec 16) (mlen : Byte),
    blockB0 p addr fcnt mlen =
      [p.tagB, 0x00, 0x00, 0x00, 0x00, 0x00,
       addr.extractLsb' 0 8, addr.extractLsb' 8 8, addr.extractLsb' 16 8, addr.extractLsb' 24 8,
       fcnt.extractLsb' 0 8, fcnt.extractLsb' 8 8, 0x00, 0x00, 0x00, mlen]) ∧
  Config.params.tagB = 0x49 ∧ Config.params.dirUp = false

/-- 42_integrity.md R182, R183: MICGEN's encoding, precondition, result and frame; the code is the
first four bytes of CMAC over B0 and FBUF[0..MLEN-1]. -/
def Obligations.MicgenComputesTheCode : Prop :=
  encodeByte .micgen = 0x20 ∧ ∀ s : State,
    (s.sess = false → exec .micgen s = .next { s with err := 7 }) ∧
    (s.sess = true → s.mlen.toNat ≤ 64 → exec .micgen s = .next { s with
      mic := (cmac s.nwkskey (blockB0 s.params s.devaddr s.fcnt s.mlen
        ++ (List.range s.mlen.toNat).map s.fbufByte)).c0, err := 0 })

/-! ## The frame serializer -/

/-- 43_frame.md R201, R202, R203: BUILD's result for a payload that fits, with direction 0 in every
state: every frame byte, the length, the code, the flags, and the frame of the state; and the defaults
of MHDR and DIR_UP. -/
def Obligations.BuildMakesTheFrame : Prop :=
  Config.params.mhdr = 0x40 ∧ Config.params.dirUp = false ∧
  ∀ s : State, s.sess = true → s.plen.toNat ≤ 51 → ∃ t, exec .build s = .next t ∧
    t.fbufByte 0 = s.params.mhdr ∧
    t.fbufByte 1 = s.devaddr.extractLsb' 0 8 ∧ t.fbufByte 2 = s.devaddr.extractLsb' 8 8 ∧
    t.fbufByte 3 = s.devaddr.extractLsb' 16 8 ∧ t.fbufByte 4 = s.devaddr.extractLsb' 24 8 ∧
    t.fbufByte 5 = 0x00 ∧
    t.fbufByte 6 = s.fcnt.extractLsb' 0 8 ∧ t.fbufByte 7 = s.fcnt.extractLsb' 8 8 ∧
    t.fbufByte 8 = s.port ∧
    (∀ j, j < s.plen.toNat → t.fbufByte (9 + j) =
      s.pbufByte j ^^^ (aes s.appskey (blockA s.params false s.devaddr s.fcnt (j / 16))).get (j % 16)) ∧
    (∀ j, j < 4 → t.fbufByte (9 + s.plen.toNat + j) = t.mic.get j) ∧
    t.mic = (cmac s.nwkskey (blockB0 s.params s.devaddr s.fcnt (BitVec.ofNat 8 (9 + s.plen.toNat))
      ++ (List.range (9 + s.plen.toNat)).map t.fbufByte)).c0 ∧
    t.flen.toNat = 13 + s.plen.toNat ∧
    (∀ a, a < fbufBase ∨ fbufBase + (13 + s.plen.toNat) ≤ a → t.readByte a = s.readByte a) ∧
    { t with mem := s.mem, mic := s.mic, flen := s.flen } = { s with fvalid := true, err := 0 }

/-- 43_frame.md R206, R204: the boundary is PLEN 51 and 52; a rejected BUILD leaves no frame and
changes neither buffer nor MIC. -/
def Obligations.BuildRejectsAnOversizePayload : Prop :=
  ∀ s : State, s.sess = true →
    (52 ≤ s.plen.toNat → exec .build s = .next { s with fvalid := false, flen := 0, err := 4 }) ∧
    (s.plen.toNat ≤ 51 → ∃ t, exec .build s = .next t ∧ t.fvalid = true ∧ t.err = 0)

/-- 43_frame.md R203 with 42_integrity.md R183 (the law the spec derives as R207): right after a
BUILD, MICGEN over header and ciphertext reproduces the code and changes nothing else but ERR. -/
def Obligations.MicgenAfterBuildReproducesTheCode : Prop :=
  ∀ s : State, s.sess = true → s.plen.toNat ≤ 51 → ∃ t, exec .build s = .next t ∧
    exec .micgen { t with mlen := t.flen - 4 } = .next { t with mlen := t.flen - 4 }

/-- 43_frame.md R203 with 41_keystream.md R156 (the law the spec derives as R207): the payload comes
back from the frame, with direction 0. -/
def Obligations.FrameGivesBackThePayload : Prop :=
  ∀ (p : Params) (app nwk : Block) (addr : BitVec 32) (port : Byte) (fcnt : BitVec 16)
    (plain : List Byte),
    cryptBytes p app false addr fcnt
      (((frame p app nwk addr port fcnt plain).drop 9).take plain.length) = plain

/-! ## The radio commands -/

/-- 44_radio.md R236: SETDR's encoding, result, error and frame. -/
def Obligations.SetdrSelectsAProfile : Prop :=
  encodeByte .setdr = 0x41 ∧ ∀ s : State,
    (∀ d, s.params.drTable[s.drsel.toNat]? = some d →
      exec .setdr s = .next { s with drcfg := d.triple, err := 0 }) ∧
    (s.params.nDr ≤ s.drsel.toNat → exec .setdr s = .next { s with err := 3 })

/-- 44_radio.md R238: SETCH's encoding, precondition, result and frame, for an index in range. -/
def Obligations.SetchFixesAChannel : Prop :=
  encodeByte .setch = 0x42 ∧ ∀ s : State,
    (s.sess = false → exec .setch s = .next { s with err := 7 }) ∧
    (s.sess = true → ∀ plan ch, s.params.chTable[s.region.toNat]? = some plan →
      plan.channels[s.chsel.toNat]? = some ch →
      exec .setch s = .next { s with chcfg := ch, chmode := true, err := 0 })

/-- 44_radio.md R230, R242: the issue steps of RINIT and SEND start the sequencer and change nothing
else; ERR is not written yet. -/
def Obligations.RinitAndSendStartTheSequencer : Prop :=
  ∀ s : State,
    exec .rinit s = .next { s with busy := true, seq := .iVer } ∧
    (s.ready = true → s.sess = true → s.fvalid = true →
      exec .send s = .next { s with busy := true, seq := .sStdby })

/-- 44_radio.md R231, R232, 20_memory.md R71: the version check, whatever byte `v` the transceiver
answers, and the reset pulse with its two delays. That the answer is the first of a list of pending
answers where there is one, and free where there is none, is the model's form (assumption log 7); so
is that the engine's turn stands in an agenda (assumption log 2). -/
def Obligations.VersionCheckAndResetPulse : Prop :=
  ∀ s : State, s.engineNext →
    (s.seq = .iVer → ∃ v : Byte, (∀ w, s.busAnswers.head? = some w → v = w) ∧
      (v = s.params.versionExpected → step s = .next { s with
        agenda := s.agenda.tail, busAnswers := s.busAnswers.tail, asked := s.asked + 1, seq := .iRstA,
        trace := s.trace ++ [.busRead s.params.regVersion v] }) ∧
      (v ≠ s.params.versionExpected → step s = .next { s with
        agenda := s.agenda.tail, busAnswers := s.busAnswers.tail, asked := s.asked + 1,
        ready := false, busy := false, seq := .idle, err := 1,
        trace := s.trace ++ [.busRead s.params.regVersion v] })) ∧
    (s.seq = .iRstA → step s = .next { s with
      agenda := s.agenda.tail, seq := .iRstB,
      trace := s.trace ++ [.rstAssert, .delay s.params.tRst1] }) ∧
    (s.seq = .iRstB → step s = .next { s with
      agenda := s.agenda.tail, seq := .iBase, fidx := 0,
      trace := s.trace ++ [.rstRelease, .delay s.params.tRst2] })

/-- 44_radio.md R233: one baseline write per step, then the finishing step. The agenda is the model's
form of the agents' turns (assumption log 2). -/
def Obligations.BaselineStep : Prop :=
  ∀ s : State, s.engineNext → s.seq = .iBase →
    (∀ w, s.params.baseline[s.fidx.toNat]? = some w → step s = .next { s with
      agenda := s.agenda.tail, fidx := s.fidx + 1,
      trace := s.trace ++ [.busWrite w.addr w.value] }) ∧
    (s.params.baseline.length ≤ s.fidx.toNat → step s = .next { s with
      agenda := s.agenda.tail, ready := true, mode := .sleep, busy := false, seq := .idle, err := 0 })

/-- 44_radio.md R243, R249, R255: the steps that command Standby, Transmit and Sleep; the last one
discards the frame and reports. The agenda is the model's form of the agents' turns (assumption
log 2). -/
def Obligations.ModeCommandingSteps : Prop :=
  ∀ s : State, s.engineNext →
    (s.seq = .sStdby → step s = .next { s with
      agenda := s.agenda.tail, mode := .standby, seq := .sChsel,
      trace := s.trace ++ [.busWrite s.params.regOpmode s.params.opmStdby] }) ∧
    (s.seq = .sTxgo → step s = .next { s with
      agenda := s.agenda.tail, mode := .transmit, elapsed := 0, timedout := false, seq := .sPoll,
      trace := s.trace ++ [.busWrite s.params.regOpmode s.params.opmTx] }) ∧
    (s.seq = .sSleep → step s = .next { s with
      agenda := s.agenda.tail, mode := .sleep, fvalid := false, busy := false, seq := .idle,
      err := if s.timedout then 5 else 0,
      trace := s.trace ++ [.busWrite s.params.regOpmode s.params.opmSleep] })

/-- 44_radio.md R244, R246: the channel is drawn in multi-channel mode, from the region's table and
for every draw, and kept in single-channel mode. That a draw stands in a list of pending draws, and
the engine's turn in an agenda, is the model's form (assumption log 7 and 2). -/
def Obligations.ChannelStep : Prop :=
  ∀ s : State, s.engineNext → s.seq = .sChsel →
    (s.chmode = true → step s = .next { s with
      agenda := s.agenda.tail, fidx := 0, seq := .sProg }) ∧
    (s.chmode = false → s.region.toNat < s.params.nRegion →
      ∃ k ch plan, k < s.params.nCh s.region.toNat ∧ s.params.chTable[s.region.toNat]? = some plan ∧
        plan.channels[k]? = some ch ∧
        (∀ j more, s.drawAnswers = j :: more → j < s.params.nCh s.region.toNat → k = j) ∧
        step s = .next { s with
          agenda := s.agenda.tail, chcfg := ch, fidx := 0, seq := .sProg,
          drawAnswers := s.drawAnswers.tail, asked := s.asked + 1,
          trace := s.trace ++ [.drawChannel (s.params.nCh s.region.toNat) k] })

/-- 44_radio.md R247: step `FIDX = k` of S_PROG makes the write of row `k` of the table, row 6 leads
on to S_FIFO, and the seven writes take seven steps. -/
def Obligations.ConfigurationTakesSevenSteps : Prop :=
  ∀ s : State, s.engineNext → s.seq = .sProg →
    let rows : List Event :=
      [.busWrite s.params.regFrf0 s.chcfg.e0, .busWrite s.params.regFrf1 s.chcfg.e1,
       .busWrite s.params.regFrf2 s.chcfg.e2, .busWrite s.params.regDr0 s.drcfg.e0,
       .busWrite s.params.regDr1 s.drcfg.e1, .busWrite s.params.regDr2 s.drcfg.e2,
       .busWrite s.params.regPaylen s.flen]
    (∀ e, rows[s.fidx.toNat]? = some e → s.fidx ≠ 6 →
      step s = .next { s with
        agenda := s.agenda.tail, fidx := s.fidx + 1, trace := s.trace ++ [e] }) ∧
    (s.fidx = 6 → step s = .next { s with
      agenda := s.agenda.tail, fidx := 0, seq := .sFifo,
      trace := s.trace ++ [.busWrite s.params.regPaylen s.flen] }) ∧
    (s.fidx = 0 → s.agenda = [] →
      runSteps 7 s = .next { s with seq := .sFifo, fidx := 0, trace := s.trace ++ rows })

/-- 44_radio.md R248: one frame byte per step while FIDX < FLEN, then one step to S_TXGO; so from
FIDX = 0 all the frame bytes go out in ascending index. -/
def Obligations.FifoLoadSendsTheFrameInOrder : Prop :=
  ∀ s : State, s.engineNext → s.seq = .sFifo → s.flen.toNat ≤ 64 →
    (s.fidx.toNat < s.flen.toNat → step s = .next { s with
      agenda := s.agenda.tail, fidx := s.fidx + 1,
      trace := s.trace ++ [.busWrite s.params.regFifo (s.fbufByte s.fidx.toNat)] }) ∧
    (s.flen.toNat ≤ s.fidx.toNat → step s = .next { s with
      agenda := s.agenda.tail, seq := .sTxgo }) ∧
    (s.fidx = 0 → s.agenda = [] → runSteps (s.flen.toNat + 1) s = .next { s with
      seq := .sTxgo, fidx := s.flen,
      trace := s.trace ++
        ((List.range s.flen.toNat).map s.fbufByte).map (Event.busWrite s.params.regFifo) })

/-- 44_radio.md R250, R252, R253: one poll iteration, whatever bit `d` the sample finds; the signal is
looked at before the time. That the sample is the first of a list of pending answers where there is one
and free where there is none, the free wait, and the agenda are the model's form (assumption log 7, 9
and 2). -/
def Obligations.PollStep : Prop :=
  ∀ s : State, s.engineNext → s.seq = .sPoll →
    ∃ d : Bool, (∀ e, s.txDoneAnswers.head? = some e → d = e) ∧
      (d = true → step s = .next { s with
        agenda := s.agenda.tail, txDoneAnswers := s.txDoneAnswers.tail, asked := s.asked + 1,
        seq := .sSleep, trace := s.trace ++ [.sampleTxDone true] }) ∧
      (d = false → s.tmo.toNat ≤ s.elapsed.toNat → step s = .next { s with
        agenda := s.agenda.tail, txDoneAnswers := s.txDoneAnswers.tail, asked := s.asked + 1,
        seq := .sSleep, timedout := true, trace := s.trace ++ [.sampleTxDone false] }) ∧
      (d = false → s.elapsed.toNat < s.tmo.toNat → ∃ w, w ≤ s.params.tPoll ∧ step s = .next { s with
        agenda := s.agenda.tail, txDoneAnswers := s.txDoneAnswers.tail, asked := s.asked + 1,
        trace := s.trace ++ [.sampleTxDone false, .delay w] })

/-- 44_radio.md R254, 10_state.md R46: a tick counts only while polling, and saturates. -/
def Obligations.TickCountsOnlyWhilePolling : Prop :=
  ∀ (s : State) (rest : List Turn), s.agenda = .tick :: rest →
    (s.seq = .sPoll → ∃ e : BitVec 16, e.toNat = min (s.elapsed.toNat + 1) 0xFFFF ∧
      step s = .next { s with agenda := rest, elapsed := e }) ∧
    (s.seq ≠ .sPoll → step s = .next { s with agenda := rest })

/-! ## Whole runs of RINIT and SEND -/

/-- 44_radio.md R230 to R233: an RINIT whose version read answers the expected byte is ready after
4 + N_BASE micro-steps, with the rule's event trace and nothing else changed. That the answer is the
first of a list of pending answers, or free, is the model's form (assumption log 7). -/
def Obligations.RinitRunsToReady : Prop :=
  ∀ s : State, s.agenda = [] → s.busAnswer = s.params.versionExpected →
    s.params.baseline.length ≤ 255 →
    ∃ s1, exec .rinit s = .next s1 ∧ runSteps (4 + s.params.baseline.length) s1 = .next { s with
      ready := true, mode := .sleep, busy := false, seq := .idle, err := 0,
      fidx := BitVec.ofNat 8 s.params.baseline.length,
      busAnswers := s.busAnswers.tail, asked := s.asked + 1,
      trace := s.trace ++ [.busRead s.params.regVersion s.params.versionExpected, .rstAssert,
        .delay s.params.tRst1, .rstRelease, .delay s.params.tRst2]
        ++ baselineEvents s.params }

/-- 44_radio.md R242 to R255: a SEND whose sample number `n + 1` is the first to find the signal, with no
tick meanwhile, ends after FLEN + 13 + n micro-steps with the rule's event trace, ERR 0 and the frame
discarded; nothing else changes. In single-channel mode it goes out on CHCFG; in multi-channel mode on
a channel drawn from the region's table, which CHCFG then holds. That samples and draws stand in lists
of pending answers, and the free waits, are the model's form (assumption log 7 and 9). -/
def Obligations.SendEmitsItsWholeTrace : Prop :=
  ∀ (s : State) (n : Nat) (more : List Bool), s.agenda = [] → s.ready = true → s.sess = true →
    s.fvalid = true → s.flen.toNat ≤ 64 → s.txDoneAnswers = List.replicate n false ++ true :: more →
    (n = 0 ∨ 0 < s.tmo.toNat) →
    ∃ (s1 : State) (waits : List Nat), exec .send s = .next s1 ∧
      waits.length = n ∧ (∀ w ∈ waits, w ≤ s.params.tPoll) ∧
      (s.chmode = true → runSteps (s.flen.toNat + 13 + n) s1 = .next { s with
        mode := .sleep, busy := false, seq := .idle, fvalid := false, err := 0,
        fidx := s.flen, elapsed := 0, timedout := false,
        txDoneAnswers := more, asked := s.asked + (n + 1),
        trace := s.trace ++ sendEvents s.params [] s.chcfg s.drcfg s.flen s.frameBytes waits }) ∧
      (s.chmode = false → s.region.toNat < s.params.nRegion →
        ∃ k ch plan, k < s.params.nCh s.region.toNat ∧ s.params.chTable[s.region.toNat]? = some plan ∧
          plan.channels[k]? = some ch ∧
          (∀ j rest, s.drawAnswers = j :: rest → j < s.params.nCh s.region.toNat → k = j) ∧
          runSteps (s.flen.toNat + 13 + n) s1 = .next { s with
            mode := .sleep, busy := false, seq := .idle, fvalid := false, err := 0,
            fidx := s.flen, elapsed := 0, timedout := false, chcfg := ch,
            txDoneAnswers := more, drawAnswers := s.drawAnswers.tail, asked := s.asked + (n + 2),
            trace := s.trace ++ sendEvents s.params [.drawChannel (s.params.nCh s.region.toNat) k]
              ch s.drcfg s.flen s.frameBytes waits })

/-- 44_radio.md R250, R253, R254, R255, 10_state.md R46: a poll that never finds the signal, with one
tick after every sample that does not end it, ends in Sleep with SendTimeout after exactly
TMO - ELAPSED ticks and one sample more than ticks; each wait between is at most T_POLL. The agenda, the
pending samples and the free waits are the model's form (assumption log 2, 7 and 9). -/
def Obligations.UnansweredPollEndsInSendTimeout : Prop :=
  ∀ (s : State) (n : Nat) (more : List Bool), s.seq = .sPoll →
    s.elapsed.toNat + n = s.tmo.toNat →
    s.agenda = (List.replicate n [Turn.engine, Turn.tick]).flatten ++ [.engine, .engine] →
    s.txDoneAnswers = List.replicate (n + 1) false ++ more →
    ∃ waits : List Nat, waits.length = n ∧ (∀ w ∈ waits, w ≤ s.params.tPoll) ∧
      runSteps (2 * n + 2) s = .next { s with
        agenda := [], txDoneAnswers := more, asked := s.asked + (n + 1),
        elapsed := s.tmo, timedout := true, mode := .sleep, fvalid := false, busy := false,
        seq := .idle, err := 5,
        trace := s.trace
          ++ pollEvents waits ++ [.sampleTxDone false, .busWrite s.params.regOpmode s.params.opmSleep] }

/-! ## The mode machine and the invariant -/

/-- The invariant holds at reset. -/
def Obligations.SoundAtReset : Prop := State.reset.Inv

/-- Every step keeps the invariant, whatever turn it is: BUSY and SEQ agree, MODE is the one
commanded, a valid frame is whole and fits, ERR is a known code, memory is canonical, and so on
(Safety.lean). -/
def Obligations.EveryStepKeepsSoundness : Prop :=
  ∀ s t : State, s.Inv → step s = .next t → t.Inv

/-- A sound state never steps into a fault: the model's faults name what the sequencer never does. -/
def Obligations.SoundStatesNeverFault : Prop := ∀ s : State, s.Inv → s.stepsSafely

/-- 44_radio.md R221: but for a reset of the engine, every step keeps the mode or makes one of the
three transitions, each at its own micro-step. -/
def Obligations.ModeMovesAroundItsCycle : Prop :=
  ∀ s t : State, s.Inv → s.agenda.head? ≠ some .resetPin → step s = .next t →
    t.mode = s.mode ∨
    (s.mode = .sleep ∧ t.mode = .standby ∧ s.seq = .sStdby) ∨
    (s.mode = .standby ∧ t.mode = .transmit ∧ s.seq = .sTxgo) ∨
    (s.mode = .transmit ∧ t.mode = .sleep ∧ s.seq = .sSleep)

/-- 10_state.md R26, 45_system.md R282, R283: but for a reset, a step keeps a session and its
credentials; and a session begins only by an LDSESS written to CMD with a recognised region. -/
def Obligations.SessionsAreImmutable : Prop :=
  ∀ s t : State, s.agenda.head? ≠ some .resetPin → step s = .next t →
    (s.sess = true → t.sess = true ∧ t.devaddr = s.devaddr ∧ t.nwkskey = s.nwkskey ∧
      t.appskey = s.appskey ∧ t.region = s.region) ∧
    (s.sess = false → t.sess = true →
      s.agenda.head? = some (.hostWrite 0x0000 0x01) ∧ s.region.toNat < s.params.nRegion)

/-- 10_state.md R30, R57, 20_memory.md R77, 30_encoding.md R93: no command and no micro-step writes an
operand register, and no command emits an event at its issue (20_memory.md R74). -/
def Obligations.CommandsNeverWriteOperands : Prop :=
  ∀ (s t : State), ((∃ i, exec i s = .next t) ∨ engineTurn s = .next t) →
    (t.dir = s.dir ∧ t.port = s.port ∧ t.fcnt = s.fcnt ∧ t.plen = s.plen ∧ t.blkidx = s.blkidx ∧
      t.mlen = s.mlen ∧ t.drsel = s.drsel ∧ t.chsel = s.chsel ∧ t.tmo = s.tmo ∧
      t.devaddr = s.devaddr ∧ t.nwkskey = s.nwkskey ∧ t.appskey = s.appskey ∧
      t.region = s.region ∧ t.params = s.params) ∧
    ((∃ i, exec i s = .next t) → t.trace = s.trace)

/-! ## Host access -/

/-- 10_state.md R21, 20_memory.md R61: the host map's addresses, and which addresses are unmapped. -/
def Obligations.HostMapIsOneToOne : Prop :=
  ∀ a : BitVec 16,
    (locate a ≠ .unmapped → (locate a).addr = a) ∧
    (locate a = .unmapped ↔ a.toNat = 0x1B ∨ a.toNat = 0x1F ∨ (0x54 ≤ a.toNat ∧ a.toNat ≤ 0xFF) ∨
      a.toNat = 0x1FF ∨ 0x240 ≤ a.toNat)

/-- 10_state.md R41: the bits of STATUS. -/
def Obligations.StatusBitsAreTheirRegisters : Prop :=
  ∀ s : State,
    s.status.getLsbD 0 = s.busy ∧ s.status.getLsbD 1 = s.sess ∧ s.status.getLsbD 2 = s.ready ∧
    s.status.getLsbD 3 = s.fvalid ∧ s.status.getLsbD 4 = s.chmode ∧
    s.status.extractLsb' 5 2 =
      (match s.mode with
        | .sleep => 0
        | .standby => 1
        | .transmit => 2) ∧
    s.status.getLsbD 7 = s.timedout

/-- 20_memory.md R61, R62, R66, 10_state.md R21, R23, R24, R27, R44, R56: a host read is always
possible, returns `load (locate a)`, the byte that the table of R21 gives for the address, SEQ by its
codes of R44, and changes nothing but what the host has seen. That this is recorded in hostReads is the
model's form (assumption log 13); that PBUF's addresses beyond PBUF_SIZE are unmapped is its choice
(assumption log 20). -/
def Obligations.HostReadsChangeNothing : Prop :=
  ∀ (s : State) (a : BitVec 16) (rest : List Turn), s.agenda = .hostRead a :: rest →
    let v : Byte := s.load (locate a)
    step s = .next { s with agenda := rest, hostReads := s.hostReads ++ [(a, v)] } ∧
    (a.toNat = 0x00 → v = 0) ∧ (a.toNat = 0x01 → v = s.status) ∧ (a.toNat = 0x02 → v = s.err) ∧
    (a.toNat = 0x03 → v =
      (match s.seq with
        | .idle => 0x00
        | .iVer => 0x10
        | .iRstA => 0x11
        | .iRstB => 0x12
        | .iBase => 0x13
        | .sStdby => 0x20
        | .sChsel => 0x21
        | .sProg => 0x22
        | .sFifo => 0x23
        | .sTxgo => 0x24
        | .sPoll => 0x25
        | .sSleep => 0x26)) ∧
    (a.toNat = 0x04 → v.getLsbD 0 = s.dir ∧ v.extractLsb' 1 7 = 0) ∧
    (a.toNat = 0x05 → v = s.port) ∧
    (a.toNat = 0x06 → v = s.fcnt.extractLsb' 0 8) ∧ (a.toNat = 0x07 → v = s.fcnt.extractLsb' 8 8) ∧
    (a.toNat = 0x08 → v = s.plen) ∧ (a.toNat = 0x09 → v = s.blkidx) ∧ (a.toNat = 0x0A → v = s.mlen) ∧
    (a.toNat = 0x0B → v = s.drsel) ∧ (a.toNat = 0x0C → v = s.chsel) ∧
    (a.toNat = 0x0D → v = s.tmo.extractLsb' 0 8) ∧ (a.toNat = 0x0E → v = s.tmo.extractLsb' 8 8) ∧
    (a.toNat = 0x0F → v = s.region) ∧
    (a.toNat = 0x10 → v = s.devaddr.extractLsb' 0 8) ∧
    (a.toNat = 0x11 → v = s.devaddr.extractLsb' 8 8) ∧
    (a.toNat = 0x12 → v = s.devaddr.extractLsb' 16 8) ∧
    (a.toNat = 0x13 → v = s.devaddr.extractLsb' 24 8) ∧
    (a.toNat = 0x14 → v = s.flen) ∧ (a.toNat = 0x15 → v = s.fidx) ∧
    (a.toNat = 0x16 → v = s.elapsed.extractLsb' 0 8) ∧
    (a.toNat = 0x17 → v = s.elapsed.extractLsb' 8 8) ∧
    (a.toNat = 0x18 → v = s.drcfg.e0) ∧ (a.toNat = 0x19 → v = s.drcfg.e1) ∧
    (a.toNat = 0x1A → v = s.drcfg.e2) ∧
    (a.toNat = 0x1C → v = s.chcfg.e0) ∧ (a.toNat = 0x1D → v = s.chcfg.e1) ∧
    (a.toNat = 0x1E → v = s.chcfg.e2) ∧
    (0x20 ≤ a.toNat → a.toNat < 0x40 → v = 0) ∧
    (0x40 ≤ a.toNat → a.toNat < 0x50 → v = s.ks.get (a.toNat - 0x40)) ∧
    (0x50 ≤ a.toNat → a.toNat < 0x54 → v = s.mic.get (a.toNat - 0x50)) ∧
    (0x100 ≤ a.toNat → a.toNat ≤ 0x1FE → a.toNat < 0x100 + s.params.pbufSize →
      v = s.readByte a.toNat) ∧
    (0x100 + s.params.pbufSize ≤ a.toNat → a.toNat ≤ 0x1FE → v = 0) ∧
    (0x200 ≤ a.toNat → a.toNat ≤ 0x23F → v = s.readByte a.toNat) ∧
    (a.toNat = 0x1B ∨ a.toNat = 0x1F ∨ (0x54 ≤ a.toNat ∧ a.toNat ≤ 0xFF) ∨
      a.toNat = 0x1FF ∨ 0x240 ≤ a.toNat → v = 0)

/-- 10_state.md R23, R24: what a host read returns, `load (locate a)` by HostReadsChangeNothing, does
not depend on the keys, and at a key's address it is 0. -/
def Obligations.KeysNeverReadBack : Prop :=
  (∀ (s : State) (nwk app : Block) (a : BitVec 16),
    ({ s with nwkskey := nwk, appskey := app } : State).load (locate a) = s.load (locate a)) ∧
  ∀ (s : State) (a : BitVec 16), 0x20 ≤ a.toNat → a.toNat < 0x40 → s.load (locate a) = 0

/-- 10_state.md R21 to R25, R27, R56, 20_memory.md R62, R64: the operand registers, and while SESS = 0
the credential registers, take a host write at their addresses, and a write changes one byte alone. A
register of several bytes has its low byte, or its byte of index 0, at the lowest address. -/
def Obligations.HostWritesReachTheOperands : Prop :=
  ∀ (s : State) (a : BitVec 16) (v : Byte) (rest : List Turn), s.agenda = .hostWrite a v :: rest →
    s.busy = false →
    (a = 0x0004 → step s = .next { s with agenda := rest, dir := v.getLsbD 0 }) ∧
    (a = 0x0005 → step s = .next { s with agenda := rest, port := v }) ∧
    (a = 0x0006 → step s = .next { s with
      agenda := rest, fcnt := (s.fcnt &&& 0xFF00) ||| v.zeroExtend 16 }) ∧
    (a = 0x0007 → step s = .next { s with
      agenda := rest, fcnt := (s.fcnt &&& 0x00FF) ||| (v.zeroExtend 16 <<< 8) }) ∧
    (a = 0x0008 → step s = .next { s with agenda := rest, plen := v }) ∧
    (a = 0x0009 → step s = .next { s with agenda := rest, blkidx := v }) ∧
    (a = 0x000A → step s = .next { s with agenda := rest, mlen := v }) ∧
    (a = 0x000B → step s = .next { s with agenda := rest, drsel := v }) ∧
    (a = 0x000C → step s = .next { s with agenda := rest, chsel := v }) ∧
    (a = 0x000D → step s = .next { s with
      agenda := rest, tmo := (s.tmo &&& 0xFF00) ||| v.zeroExtend 16 }) ∧
    (a = 0x000E → step s = .next { s with
      agenda := rest, tmo := (s.tmo &&& 0x00FF) ||| (v.zeroExtend 16 <<< 8) }) ∧
    (a = 0x000F → step s = .next { s with
      agenda := rest, region := if s.sess then s.region else v }) ∧
    (s.sess = false → ∀ k, k < 4 → a.toNat = 0x10 + k →
      ∃ d : BitVec 32, step s = .next { s with agenda := rest, devaddr := d } ∧
        ∀ j, j < 4 → d.extractLsb' (8 * j) 8 = if j = k then v else s.devaddr.extractLsb' (8 * j) 8) ∧
    (s.sess = false → ∀ k, k < 16 → a.toNat = 0x20 + k →
      ∃ key : Block, step s = .next { s with agenda := rest, nwkskey := key } ∧
        ∀ j, j < 16 → key.get j = if j = k then v else s.nwkskey.get j) ∧
    (s.sess = false → ∀ k, k < 16 → a.toNat = 0x30 + k →
      ∃ key : Block, step s = .next { s with agenda := rest, appskey := key } ∧
        ∀ j, j < 16 → key.get j = if j = k then v else s.appskey.get j)

/-- 10_state.md R51, R52, R39, 20_memory.md R62, 00_scope.md R8: a host write to a buffer byte changes
that byte alone, and an FBUF write also clears FVALID. -/
def Obligations.HostWritesReachTheBuffers : Prop :=
  ∀ (s : State) (a : BitVec 16) (v : Byte) (rest : List Turn), s.agenda = .hostWrite a v :: rest →
    s.busy = false →
    (0x100 ≤ a.toNat → a.toNat ≤ 0x1FE → a.toNat < 0x100 + s.params.pbufSize → ∃ t, step s = .next t ∧ t.readByte a.toNat = v ∧
      (∀ b, b ≠ a.toNat → t.readByte b = s.readByte b) ∧
      { t with mem := s.mem } = { s with agenda := rest }) ∧
    (0x200 ≤ a.toNat → a.toNat ≤ 0x23F → ∃ t, step s = .next t ∧ t.readByte a.toNat = v ∧
      (∀ b, b ≠ a.toNat → t.readByte b = s.readByte b) ∧
      { t with mem := s.mem } = { s with agenda := rest, fvalid := false })

/-- 10_state.md R56: a host write to a read-only or unmapped address, or to a credential address while
SESS = 1, is ignored. That PBUF's addresses beyond PBUF_SIZE are unmapped is the model's choice
(assumption log 20). -/
def Obligations.OtherHostWritesAreIgnored : Prop :=
  ∀ (s : State) (a : BitVec 16) (v : Byte) (rest : List Turn), s.agenda = .hostWrite a v :: rest →
    s.busy = false →
    ((1 ≤ a.toNat ∧ a.toNat ≤ 3) ∨ (0x14 ≤ a.toNat ∧ a.toNat ≤ 0x1F) ∨
      (0x40 ≤ a.toNat ∧ a.toNat ≤ 0xFF) ∨
      (0x100 + s.params.pbufSize ≤ a.toNat ∧ a.toNat ≤ 0x1FF) ∨ a.toNat = 0x1FF ∨ 0x240 ≤ a.toNat ∨
      (s.sess = true ∧ 0x0F ≤ a.toNat ∧ a.toNat ≤ 0x3F)) →
    step s = .next { s with agenda := rest }

/-- The three cases the spec leaves unspecified and says a model refuses: a host write while BUSY = 1
(10_state.md R43, 93_implementation_defined.md U3), SETCH with an index beyond the region's table
(44_radio.md R238, U1) and MICGEN with a message longer than FBUF (42_integrity.md R183, U2).
Assumption log 3, 4 and 5. -/
def Obligations.UnspecifiedCasesAreRefused : Prop :=
  ∀ s : State,
    (∀ a v rest, s.agenda = .hostWrite a v :: rest → s.busy = true →
      step s = .refused .hostWriteWhileBusy) ∧
    (s.sess = true → s.params.nCh s.region.toNat ≤ s.chsel.toNat →
      exec .setch s = .refused .channelIndexOutOfRange) ∧
    (s.sess = true → 64 < s.mlen.toNat → exec .micgen s = .refused .messageLongerThanBuffer)

/-- 30_encoding.md R97, 10_state.md R22, R23, R24, 20_memory.md R62, R64: the accesses of LDADDR, of
LDKEY NWK and of LDKEY APP load the credential while no session is loaded. -/
def Obligations.CredentialLoadsTakeEffect : Prop :=
  ∀ (s : State) (addr : BitVec 32) (key : Block), s.busy = false → s.sess = false →
    runSteps 4 { s with agenda := (Statement.ldaddr addr).accesses } =
      .next { s with agenda := [], devaddr := addr } ∧
    runSteps 16 { s with agenda := (Statement.ldkeyNwk key).accesses } =
      .next { s with agenda := [], nwkskey := key } ∧
    runSteps 16 { s with agenda := (Statement.ldkeyApp key).accesses } =
      .next { s with agenda := [], appskey := key }

/-- 30_encoding.md R97, 20_memory.md R62: the accesses of LDPAY put the bytes into PBUF and their
number into PLEN, and change no other byte and no other register. -/
def Obligations.PayloadLoadTakesEffect : Prop :=
  ∀ (s : State) (bytes : List Byte), s.busy = false → bytes.length ≤ 255 →
    bytes.length ≤ s.params.pbufSize →
    ∃ t, runSteps (bytes.length + 1) { s with agenda := (Statement.ldpay bytes).accesses } = .next t ∧
      t.payload = bytes ∧
      (∀ a, a < pbufBase ∨ pbufBase + bytes.length ≤ a → t.readByte a = s.readByte a) ∧
      { t with mem := s.mem, plen := s.plen } = { s with agenda := [] }

/-! ## The bus and reset -/

/-- 20_memory.md R70, R71: the address byte has the high bit set for a write and clear for a read, with
the register's address in the other seven bits; a write's data byte follows. -/
def Obligations.BusAddressByteMarksWrites : Prop :=
  ∀ (a : BitVec 7) (v : Byte), ∃ w r : Byte,
    (Event.busWrite a v).wireBytes = [w, v] ∧ w.getLsbD 7 = true ∧ w.extractLsb' 0 7 = a ∧
    (Event.busRead a v).wireBytes = [r] ∧ r.getLsbD 7 = false ∧ r.extractLsb' 0 7 = a

/-- 10_state.md R55: the state after reset, register by register; the buffers' contents are
unspecified. 00_scope.md R8, R9: the parameters that have a default have it. -/
def Obligations.ResetValuesOfEveryRegister : Prop :=
  let r := State.reset
  let zero : Block := ⟨⟨0, 0, 0, 0⟩, ⟨0, 0, 0, 0⟩, ⟨0, 0, 0, 0⟩, ⟨0, 0, 0, 0⟩⟩
  r.devaddr = 0 ∧ r.nwkskey = zero ∧ r.appskey = zero ∧ r.region = 0 ∧ r.sess = false ∧
  r.dir = false ∧ r.port = 0 ∧ r.fcnt = 0 ∧ r.plen = 0 ∧ r.blkidx = 0 ∧ r.mlen = 0 ∧ r.drsel = 0 ∧
  r.chsel = 0 ∧ r.tmo = 0 ∧ r.ks = zero ∧ r.mic = ⟨0, 0, 0, 0⟩ ∧ r.flen = 0 ∧ r.fvalid = false ∧
  r.err = 0 ∧ r.chmode = false ∧ r.chcfg = ⟨0, 0, 0⟩ ∧ r.ready = false ∧ r.mode = .sleep ∧
  r.busy = false ∧ r.seq = .idle ∧ r.fidx = 0 ∧ r.elapsed = 0 ∧ r.timedout = false ∧
  (∃ d, r.params.drTable[r.params.drDefault]? = some d ∧ r.drcfg = d.triple) ∧
  r.params.mhdr = 0x40 ∧ r.params.tagA = 0x01 ∧ r.params.tagB = 0x49 ∧ r.params.ctrBase = 0 ∧
  r.params.dirUp = false ∧ r.params.pbufSize = 255 ∧ r.params.drDefault = 0

/-- 70_reset_and_hazards.md R320, R321, R322: RST_N gives every register its reset value whatever the
engine was doing and emits no event. That the other agents' plans and pending answers, the count of questions,
what the host has seen and the trace stay, that resets are counted, and that the buffers' bytes are free
again, is the model's choice (assumption log 6 and 12). -/
def Obligations.ResetPinAbandonsTheCommand : Prop :=
  ∀ (s : State) (rest : List Turn), s.agenda = .resetPin :: rest →
    ∃ t, step s = .next t ∧ t.trace = s.trace ∧ t.agenda = rest ∧ t.params = s.params ∧
      t.hostReads = s.hostReads ∧ t.busAnswers = s.busAnswers ∧ t.txDoneAnswers = s.txDoneAnswers ∧
      t.drawAnswers = s.drawAnswers ∧ t.asked = s.asked ∧ t.resets = s.resets + 1 ∧
      t.seq = .idle ∧ t.busy = false ∧ t.mode = .sleep ∧ t.err = 0 ∧ t.sess = false ∧
      t.ready = false ∧ t.fvalid = false ∧ t.chmode = false ∧ t.timedout = false ∧
      t.drcfg = s.params.defaultTriple ∧ (∀ a, t.mem.find? a = none) ∧
      { t with resets := 0, agenda := [], busAnswers := [], txDoneAnswers := [], drawAnswers := [],
               asked := 0, trace := [], hostReads := [] } = State.resetWith s.params
end

