-- ==== Sys2Proof/Laws/Bytes.lean ====
section
/-! SUPPORT. Lengths and elements of the byte groups and byte sequences the units make. -/

namespace Sys2Proof

@[simp] theorem Quad.toList_length (q : Quad) : q.toList.length = 4 := rfl
@[simp] theorem Block.toList_length (b : Block) : b.toList.length = 16 := rfl
@[simp] theorem le16_length (v : BitVec 16) : (le16 v).length = 2 := rfl
@[simp] theorem le32_length (v : BitVec 32) : (le32 v).length = 4 := rfl

/-- Byte `k` of a block is element `k` of its sequence. -/
theorem Block.toList_getElem? (b : Block) (k : Nat) (h : k < 16) : b.toList[k]? = some (b.get k) := by
  interval_cases k <;> rfl

/-- Byte `k` of four is element `k` of their sequence. -/
theorem Quad.toList_getElem? (q : Quad) (k : Nat) (h : k < 4) : q.toList[k]? = some (q.get k) := by
  interval_cases k <;> rfl

/-- A block is its sequence of bytes. -/
@[simp] theorem Block.ofList_toList (b : Block) : Block.ofList b.toList = b := rfl

/-- A replaced byte reads as replaced. -/
theorem Block.get_set_same (b : Block) (k : Nat) (v : Byte) (h : k < 16) : (b.set k v).get k = v := by
  interval_cases k <;> rfl

/-- Every other byte reads as before. -/
theorem Block.get_set_other (b : Block) (k j : Nat) (v : Byte) (hk : k < 16) (hj : j < 16)
    (h : j ≠ k) : (b.set k v).get j = b.get j := by
  interval_cases k <;> interval_cases j <;> first | rfl | exact absurd rfl h

namespace Machine

@[simp] theorem nonceBytes_length (addr : BitVec 32) (fcnt : BitVec 16) :
    (nonceBytes addr fcnt).length = 8 := rfl

@[simp] theorem blockB0_length (p : Params) (addr : BitVec 32) (fcnt : BitVec 16) (mlen : Byte) :
    (blockB0 p addr fcnt mlen).length = 16 := rfl

@[simp] theorem frameHeader_length (p : Params) (addr : BitVec 32) (port : Byte) (fcnt : BitVec 16) :
    (frameHeader p addr port fcnt).length = 9 := rfl

/-- The keystream has sixteen bytes per block. -/
@[simp] theorem keystream_length (p : Params) (key : Block) (dir : Bool) (addr : BitVec 32)
    (fcnt : BitVec 16) (n : Nat) : (keystream p key dir addr fcnt n).length = 16 * n := by
  simp [keystream, List.length_flatMap, Nat.mul_comm]

/-- One more block of keystream stands behind the blocks before it. -/
theorem keystream_succ (p : Params) (key : Block) (dir : Bool) (addr : BitVec 32)
    (fcnt : BitVec 16) (n : Nat) :
    keystream p key dir addr fcnt (n + 1) =
      keystream p key dir addr fcnt n ++ (keystreamBlock p key dir addr fcnt n).toList := by
  simp [keystream, List.range_succ, List.flatMap_append]

/-- The transform keeps the length. -/
@[simp] theorem cryptBytes_length (p : Params) (key : Block) (dir : Bool) (addr : BitVec 32)
    (fcnt : BitVec 16) (payload : List Byte) :
    (cryptBytes p key dir addr fcnt payload).length = payload.length := by
  simp [cryptBytes]; omega

@[simp] theorem frameBody_length (p : Params) (app : Block) (addr : BitVec 32) (port : Byte)
    (fcnt : BitVec 16) (payload : List Byte) :
    (frameBody p app addr port fcnt payload).length = 9 + payload.length := by
  simp [frameBody]

@[simp] theorem frame_length (p : Params) (app nwk : Block) (addr : BitVec 32) (port : Byte)
    (fcnt : BitVec 16) (payload : List Byte) :
    (frame p app nwk addr port fcnt payload).length = 13 + payload.length := by
  simp [frame]; omega

@[simp] theorem payload_length (s : State) : s.payload.length = s.plen.toNat := by
  simp [State.payload]

@[simp] theorem message_length (s : State) : s.message.length = s.mlen.toNat := by
  simp [State.message]

@[simp] theorem frameBytes_length (s : State) : s.frameBytes.length = s.flen.toNat := by
  simp [State.frameBytes]

end Machine

end Sys2Proof
end

