-- ==== Sys2Proof/Laws/State.lean ====
section
/-! SUPPORT. What each named update of the state leaves in each field, and what the derived views
(buffer bytes, STATUS, tables) see of it. All by definition, for simp. -/

namespace Sys2Proof.Machine

@[simp] theorem State.endWith_params (s : State) (c : Byte) : (s.endWith c).params = s.params := rfl
@[simp] theorem State.endWith_devaddr (s : State) (c : Byte) : (s.endWith c).devaddr = s.devaddr := rfl
@[simp] theorem State.endWith_nwkskey (s : State) (c : Byte) : (s.endWith c).nwkskey = s.nwkskey := rfl
@[simp] theorem State.endWith_appskey (s : State) (c : Byte) : (s.endWith c).appskey = s.appskey := rfl
@[simp] theorem State.endWith_region (s : State) (c : Byte) : (s.endWith c).region = s.region := rfl
@[simp] theorem State.endWith_sess (s : State) (c : Byte) : (s.endWith c).sess = s.sess := rfl
@[simp] theorem State.endWith_dir (s : State) (c : Byte) : (s.endWith c).dir = s.dir := rfl
@[simp] theorem State.endWith_port (s : State) (c : Byte) : (s.endWith c).port = s.port := rfl
@[simp] theorem State.endWith_fcnt (s : State) (c : Byte) : (s.endWith c).fcnt = s.fcnt := rfl
@[simp] theorem State.endWith_plen (s : State) (c : Byte) : (s.endWith c).plen = s.plen := rfl
@[simp] theorem State.endWith_blkidx (s : State) (c : Byte) : (s.endWith c).blkidx = s.blkidx := rfl
@[simp] theorem State.endWith_mlen (s : State) (c : Byte) : (s.endWith c).mlen = s.mlen := rfl
@[simp] theorem State.endWith_drsel (s : State) (c : Byte) : (s.endWith c).drsel = s.drsel := rfl
@[simp] theorem State.endWith_chsel (s : State) (c : Byte) : (s.endWith c).chsel = s.chsel := rfl
@[simp] theorem State.endWith_tmo (s : State) (c : Byte) : (s.endWith c).tmo = s.tmo := rfl
@[simp] theorem State.endWith_ks (s : State) (c : Byte) : (s.endWith c).ks = s.ks := rfl
@[simp] theorem State.endWith_mic (s : State) (c : Byte) : (s.endWith c).mic = s.mic := rfl
@[simp] theorem State.endWith_flen (s : State) (c : Byte) : (s.endWith c).flen = s.flen := rfl
@[simp] theorem State.endWith_fvalid (s : State) (c : Byte) : (s.endWith c).fvalid = s.fvalid := rfl
@[simp] theorem State.endWith_err (s : State) (c : Byte) : (s.endWith c).err = c := rfl
@[simp] theorem State.endWith_drcfg (s : State) (c : Byte) : (s.endWith c).drcfg = s.drcfg := rfl
@[simp] theorem State.endWith_chmode (s : State) (c : Byte) : (s.endWith c).chmode = s.chmode := rfl
@[simp] theorem State.endWith_chcfg (s : State) (c : Byte) : (s.endWith c).chcfg = s.chcfg := rfl
@[simp] theorem State.endWith_ready (s : State) (c : Byte) : (s.endWith c).ready = s.ready := rfl
@[simp] theorem State.endWith_mode (s : State) (c : Byte) : (s.endWith c).mode = s.mode := rfl
@[simp] theorem State.endWith_busy (s : State) (c : Byte) : (s.endWith c).busy = s.busy := rfl
@[simp] theorem State.endWith_seq (s : State) (c : Byte) : (s.endWith c).seq = s.seq := rfl
@[simp] theorem State.endWith_fidx (s : State) (c : Byte) : (s.endWith c).fidx = s.fidx := rfl
@[simp] theorem State.endWith_elapsed (s : State) (c : Byte) : (s.endWith c).elapsed = s.elapsed := rfl
@[simp] theorem State.endWith_timedout (s : State) (c : Byte) : (s.endWith c).timedout = s.timedout := rfl
@[simp] theorem State.endWith_mem (s : State) (c : Byte) : (s.endWith c).mem = s.mem := rfl
@[simp] theorem State.endWith_resets (s : State) (c : Byte) : (s.endWith c).resets = s.resets := rfl
@[simp] theorem State.endWith_agenda (s : State) (c : Byte) : (s.endWith c).agenda = s.agenda := rfl
@[simp] theorem State.endWith_busAnswers (s : State) (c : Byte) : (s.endWith c).busAnswers = s.busAnswers := rfl
@[simp] theorem State.endWith_txDoneAnswers (s : State) (c : Byte) : (s.endWith c).txDoneAnswers = s.txDoneAnswers := rfl
@[simp] theorem State.endWith_drawAnswers (s : State) (c : Byte) : (s.endWith c).drawAnswers = s.drawAnswers := rfl
@[simp] theorem State.endWith_asked (s : State) (c : Byte) : (s.endWith c).asked = s.asked := rfl
@[simp] theorem State.endWith_trace (s : State) (c : Byte) : (s.endWith c).trace = s.trace := rfl
@[simp] theorem State.endWith_hostReads (s : State) (c : Byte) : (s.endWith c).hostReads = s.hostReads := rfl

@[simp] theorem State.setMem_params (s : State) (m : Memory) : (s.setMem m).params = s.params := rfl
@[simp] theorem State.setMem_devaddr (s : State) (m : Memory) : (s.setMem m).devaddr = s.devaddr := rfl
@[simp] theorem State.setMem_nwkskey (s : State) (m : Memory) : (s.setMem m).nwkskey = s.nwkskey := rfl
@[simp] theorem State.setMem_appskey (s : State) (m : Memory) : (s.setMem m).appskey = s.appskey := rfl
@[simp] theorem State.setMem_region (s : State) (m : Memory) : (s.setMem m).region = s.region := rfl
@[simp] theorem State.setMem_sess (s : State) (m : Memory) : (s.setMem m).sess = s.sess := rfl
@[simp] theorem State.setMem_dir (s : State) (m : Memory) : (s.setMem m).dir = s.dir := rfl
@[simp] theorem State.setMem_port (s : State) (m : Memory) : (s.setMem m).port = s.port := rfl
@[simp] theorem State.setMem_fcnt (s : State) (m : Memory) : (s.setMem m).fcnt = s.fcnt := rfl
@[simp] theorem State.setMem_plen (s : State) (m : Memory) : (s.setMem m).plen = s.plen := rfl
@[simp] theorem State.setMem_blkidx (s : State) (m : Memory) : (s.setMem m).blkidx = s.blkidx := rfl
@[simp] theorem State.setMem_mlen (s : State) (m : Memory) : (s.setMem m).mlen = s.mlen := rfl
@[simp] theorem State.setMem_drsel (s : State) (m : Memory) : (s.setMem m).drsel = s.drsel := rfl
@[simp] theorem State.setMem_chsel (s : State) (m : Memory) : (s.setMem m).chsel = s.chsel := rfl
@[simp] theorem State.setMem_tmo (s : State) (m : Memory) : (s.setMem m).tmo = s.tmo := rfl
@[simp] theorem State.setMem_ks (s : State) (m : Memory) : (s.setMem m).ks = s.ks := rfl
@[simp] theorem State.setMem_mic (s : State) (m : Memory) : (s.setMem m).mic = s.mic := rfl
@[simp] theorem State.setMem_flen (s : State) (m : Memory) : (s.setMem m).flen = s.flen := rfl
@[simp] theorem State.setMem_fvalid (s : State) (m : Memory) : (s.setMem m).fvalid = s.fvalid := rfl
@[simp] theorem State.setMem_err (s : State) (m : Memory) : (s.setMem m).err = s.err := rfl
@[simp] theorem State.setMem_drcfg (s : State) (m : Memory) : (s.setMem m).drcfg = s.drcfg := rfl
@[simp] theorem State.setMem_chmode (s : State) (m : Memory) : (s.setMem m).chmode = s.chmode := rfl
@[simp] theorem State.setMem_chcfg (s : State) (m : Memory) : (s.setMem m).chcfg = s.chcfg := rfl
@[simp] theorem State.setMem_ready (s : State) (m : Memory) : (s.setMem m).ready = s.ready := rfl
@[simp] theorem State.setMem_mode (s : State) (m : Memory) : (s.setMem m).mode = s.mode := rfl
@[simp] theorem State.setMem_busy (s : State) (m : Memory) : (s.setMem m).busy = s.busy := rfl
@[simp] theorem State.setMem_seq (s : State) (m : Memory) : (s.setMem m).seq = s.seq := rfl
@[simp] theorem State.setMem_fidx (s : State) (m : Memory) : (s.setMem m).fidx = s.fidx := rfl
@[simp] theorem State.setMem_elapsed (s : State) (m : Memory) : (s.setMem m).elapsed = s.elapsed := rfl
@[simp] theorem State.setMem_timedout (s : State) (m : Memory) : (s.setMem m).timedout = s.timedout := rfl
@[simp] theorem State.setMem_mem (s : State) (m : Memory) : (s.setMem m).mem = m := rfl
@[simp] theorem State.setMem_resets (s : State) (m : Memory) : (s.setMem m).resets = s.resets := rfl
@[simp] theorem State.setMem_agenda (s : State) (m : Memory) : (s.setMem m).agenda = s.agenda := rfl
@[simp] theorem State.setMem_busAnswers (s : State) (m : Memory) : (s.setMem m).busAnswers = s.busAnswers := rfl
@[simp] theorem State.setMem_txDoneAnswers (s : State) (m : Memory) : (s.setMem m).txDoneAnswers = s.txDoneAnswers := rfl
@[simp] theorem State.setMem_drawAnswers (s : State) (m : Memory) : (s.setMem m).drawAnswers = s.drawAnswers := rfl
@[simp] theorem State.setMem_asked (s : State) (m : Memory) : (s.setMem m).asked = s.asked := rfl
@[simp] theorem State.setMem_trace (s : State) (m : Memory) : (s.setMem m).trace = s.trace := rfl
@[simp] theorem State.setMem_hostReads (s : State) (m : Memory) : (s.setMem m).hostReads = s.hostReads := rfl

@[simp] theorem State.emit_params (s : State) (e : Event) : (s.emit e).params = s.params := rfl
@[simp] theorem State.emit_devaddr (s : State) (e : Event) : (s.emit e).devaddr = s.devaddr := rfl
@[simp] theorem State.emit_nwkskey (s : State) (e : Event) : (s.emit e).nwkskey = s.nwkskey := rfl
@[simp] theorem State.emit_appskey (s : State) (e : Event) : (s.emit e).appskey = s.appskey := rfl
@[simp] theorem State.emit_region (s : State) (e : Event) : (s.emit e).region = s.region := rfl
@[simp] theorem State.emit_sess (s : State) (e : Event) : (s.emit e).sess = s.sess := rfl
@[simp] theorem State.emit_dir (s : State) (e : Event) : (s.emit e).dir = s.dir := rfl
@[simp] theorem State.emit_port (s : State) (e : Event) : (s.emit e).port = s.port := rfl
@[simp] theorem State.emit_fcnt (s : State) (e : Event) : (s.emit e).fcnt = s.fcnt := rfl
@[simp] theorem State.emit_plen (s : State) (e : Event) : (s.emit e).plen = s.plen := rfl
@[simp] theorem State.emit_blkidx (s : State) (e : Event) : (s.emit e).blkidx = s.blkidx := rfl
@[simp] theorem State.emit_mlen (s : State) (e : Event) : (s.emit e).mlen = s.mlen := rfl
@[simp] theorem State.emit_drsel (s : State) (e : Event) : (s.emit e).drsel = s.drsel := rfl
@[simp] theorem State.emit_chsel (s : State) (e : Event) : (s.emit e).chsel = s.chsel := rfl
@[simp] theorem State.emit_tmo (s : State) (e : Event) : (s.emit e).tmo = s.tmo := rfl
@[simp] theorem State.emit_ks (s : State) (e : Event) : (s.emit e).ks = s.ks := rfl
@[simp] theorem State.emit_mic (s : State) (e : Event) : (s.emit e).mic = s.mic := rfl
@[simp] theorem State.emit_flen (s : State) (e : Event) : (s.emit e).flen = s.flen := rfl
@[simp] theorem State.emit_fvalid (s : State) (e : Event) : (s.emit e).fvalid = s.fvalid := rfl
@[simp] theorem State.emit_err (s : State) (e : Event) : (s.emit e).err = s.err := rfl
@[simp] theorem State.emit_drcfg (s : State) (e : Event) : (s.emit e).drcfg = s.drcfg := rfl
@[simp] theorem State.emit_chmode (s : State) (e : Event) : (s.emit e).chmode = s.chmode := rfl
@[simp] theorem State.emit_chcfg (s : State) (e : Event) : (s.emit e).chcfg = s.chcfg := rfl
@[simp] theorem State.emit_ready (s : State) (e : Event) : (s.emit e).ready = s.ready := rfl
@[simp] theorem State.emit_mode (s : State) (e : Event) : (s.emit e).mode = s.mode := rfl
@[simp] theorem State.emit_busy (s : State) (e : Event) : (s.emit e).busy = s.busy := rfl
@[simp] theorem State.emit_seq (s : State) (e : Event) : (s.emit e).seq = s.seq := rfl
@[simp] theorem State.emit_fidx (s : State) (e : Event) : (s.emit e).fidx = s.fidx := rfl
@[simp] theorem State.emit_elapsed (s : State) (e : Event) : (s.emit e).elapsed = s.elapsed := rfl
@[simp] theorem State.emit_timedout (s : State) (e : Event) : (s.emit e).timedout = s.timedout := rfl
@[simp] theorem State.emit_mem (s : State) (e : Event) : (s.emit e).mem = s.mem := rfl
@[simp] theorem State.emit_resets (s : State) (e : Event) : (s.emit e).resets = s.resets := rfl
@[simp] theorem State.emit_agenda (s : State) (e : Event) : (s.emit e).agenda = s.agenda := rfl
@[simp] theorem State.emit_busAnswers (s : State) (e : Event) : (s.emit e).busAnswers = s.busAnswers := rfl
@[simp] theorem State.emit_txDoneAnswers (s : State) (e : Event) : (s.emit e).txDoneAnswers = s.txDoneAnswers := rfl
@[simp] theorem State.emit_drawAnswers (s : State) (e : Event) : (s.emit e).drawAnswers = s.drawAnswers := rfl
@[simp] theorem State.emit_asked (s : State) (e : Event) : (s.emit e).asked = s.asked := rfl
@[simp] theorem State.emit_trace (s : State) (e : Event) : (s.emit e).trace = s.trace ++ [e] := rfl
@[simp] theorem State.emit_hostReads (s : State) (e : Event) : (s.emit e).hostReads = s.hostReads := rfl

@[simp] theorem State.hostRead_params (s : State) (a : BitVec 16) : (s.hostRead a).params = s.params := rfl
@[simp] theorem State.hostRead_devaddr (s : State) (a : BitVec 16) : (s.hostRead a).devaddr = s.devaddr := rfl
@[simp] theorem State.hostRead_nwkskey (s : State) (a : BitVec 16) : (s.hostRead a).nwkskey = s.nwkskey := rfl
@[simp] theorem State.hostRead_appskey (s : State) (a : BitVec 16) : (s.hostRead a).appskey = s.appskey := rfl
@[simp] theorem State.hostRead_region (s : State) (a : BitVec 16) : (s.hostRead a).region = s.region := rfl
@[simp] theorem State.hostRead_sess (s : State) (a : BitVec 16) : (s.hostRead a).sess = s.sess := rfl
@[simp] theorem State.hostRead_dir (s : State) (a : BitVec 16) : (s.hostRead a).dir = s.dir := rfl
@[simp] theorem State.hostRead_port (s : State) (a : BitVec 16) : (s.hostRead a).port = s.port := rfl
@[simp] theorem State.hostRead_fcnt (s : State) (a : BitVec 16) : (s.hostRead a).fcnt = s.fcnt := rfl
@[simp] theorem State.hostRead_plen (s : State) (a : BitVec 16) : (s.hostRead a).plen = s.plen := rfl
@[simp] theorem State.hostRead_blkidx (s : State) (a : BitVec 16) : (s.hostRead a).blkidx = s.blkidx := rfl
@[simp] theorem State.hostRead_mlen (s : State) (a : BitVec 16) : (s.hostRead a).mlen = s.mlen := rfl
@[simp] theorem State.hostRead_drsel (s : State) (a : BitVec 16) : (s.hostRead a).drsel = s.drsel := rfl
@[simp] theorem State.hostRead_chsel (s : State) (a : BitVec 16) : (s.hostRead a).chsel = s.chsel := rfl
@[simp] theorem State.hostRead_tmo (s : State) (a : BitVec 16) : (s.hostRead a).tmo = s.tmo := rfl
@[simp] theorem State.hostRead_ks (s : State) (a : BitVec 16) : (s.hostRead a).ks = s.ks := rfl
@[simp] theorem State.hostRead_mic (s : State) (a : BitVec 16) : (s.hostRead a).mic = s.mic := rfl
@[simp] theorem State.hostRead_flen (s : State) (a : BitVec 16) : (s.hostRead a).flen = s.flen := rfl
@[simp] theorem State.hostRead_fvalid (s : State) (a : BitVec 16) : (s.hostRead a).fvalid = s.fvalid := rfl
@[simp] theorem State.hostRead_err (s : State) (a : BitVec 16) : (s.hostRead a).err = s.err := rfl
@[simp] theorem State.hostRead_drcfg (s : State) (a : BitVec 16) : (s.hostRead a).drcfg = s.drcfg := rfl
@[simp] theorem State.hostRead_chmode (s : State) (a : BitVec 16) : (s.hostRead a).chmode = s.chmode := rfl
@[simp] theorem State.hostRead_chcfg (s : State) (a : BitVec 16) : (s.hostRead a).chcfg = s.chcfg := rfl
@[simp] theorem State.hostRead_ready (s : State) (a : BitVec 16) : (s.hostRead a).ready = s.ready := rfl
@[simp] theorem State.hostRead_mode (s : State) (a : BitVec 16) : (s.hostRead a).mode = s.mode := rfl
@[simp] theorem State.hostRead_busy (s : State) (a : BitVec 16) : (s.hostRead a).busy = s.busy := rfl
@[simp] theorem State.hostRead_seq (s : State) (a : BitVec 16) : (s.hostRead a).seq = s.seq := rfl
@[simp] theorem State.hostRead_fidx (s : State) (a : BitVec 16) : (s.hostRead a).fidx = s.fidx := rfl
@[simp] theorem State.hostRead_elapsed (s : State) (a : BitVec 16) : (s.hostRead a).elapsed = s.elapsed := rfl
@[simp] theorem State.hostRead_timedout (s : State) (a : BitVec 16) : (s.hostRead a).timedout = s.timedout := rfl
@[simp] theorem State.hostRead_mem (s : State) (a : BitVec 16) : (s.hostRead a).mem = s.mem := rfl
@[simp] theorem State.hostRead_resets (s : State) (a : BitVec 16) : (s.hostRead a).resets = s.resets := rfl
@[simp] theorem State.hostRead_agenda (s : State) (a : BitVec 16) : (s.hostRead a).agenda = s.agenda := rfl
@[simp] theorem State.hostRead_busAnswers (s : State) (a : BitVec 16) : (s.hostRead a).busAnswers = s.busAnswers := rfl
@[simp] theorem State.hostRead_txDoneAnswers (s : State) (a : BitVec 16) : (s.hostRead a).txDoneAnswers = s.txDoneAnswers := rfl
@[simp] theorem State.hostRead_drawAnswers (s : State) (a : BitVec 16) : (s.hostRead a).drawAnswers = s.drawAnswers := rfl
@[simp] theorem State.hostRead_asked (s : State) (a : BitVec 16) : (s.hostRead a).asked = s.asked := rfl
@[simp] theorem State.hostRead_trace (s : State) (a : BitVec 16) : (s.hostRead a).trace = s.trace := rfl
@[simp] theorem State.hostRead_hostReads (s : State) (a : BitVec 16) : (s.hostRead a).hostReads = s.hostReads ++ [(a, s.load (locate a))] := rfl

@[simp] theorem State.raise_eq (s : State) (k : ErrorKind) : s.raise k = s.endWith k.code := rfl
@[simp] theorem State.finish_eq (s : State) : s.finish = s.endWith 0 := rfl
@[simp] theorem State.busWrite_eq (s : State) (a : BitVec 7) (v : Byte) :
    s.busWrite a v = s.emit (.busWrite a v) := rfl

@[simp] theorem State.endWith_endWith (s : State) (c d : Byte) :
    (s.endWith c).endWith d = s.endWith d := rfl
@[simp] theorem State.setMem_setMem (s : State) (m n : Memory) :
    (s.setMem m).setMem n = s.setMem n := rfl

@[simp] theorem State.endWith_readByte (s : State) (c : Byte) (a : Nat) :
    (s.endWith c).readByte a = s.readByte a := rfl
@[simp] theorem State.endWith_pbufByte (s : State) (c : Byte) (k : Nat) :
    (s.endWith c).pbufByte k = s.pbufByte k := rfl
@[simp] theorem State.endWith_fbufByte (s : State) (c : Byte) (k : Nat) :
    (s.endWith c).fbufByte k = s.fbufByte k := rfl
@[simp] theorem State.endWith_payload (s : State) (c : Byte) : (s.endWith c).payload = s.payload := rfl
@[simp] theorem State.endWith_message (s : State) (c : Byte) : (s.endWith c).message = s.message := rfl
@[simp] theorem State.endWith_frameBytes (s : State) (c : Byte) : (s.endWith c).frameBytes = s.frameBytes := rfl
@[simp] theorem State.endWith_sendReady (s : State) (c : Byte) : (s.endWith c).sendReady = s.sendReady := rfl
@[simp] theorem State.endWith_regionKnown (s : State) (c : Byte) : (s.endWith c).regionKnown = s.regionKnown := rfl
@[simp] theorem State.endWith_channelCount (s : State) (c : Byte) : (s.endWith c).channelCount = s.channelCount := rfl
@[simp] theorem State.endWith_timeoutReached (s : State) (c : Byte) : (s.endWith c).timeoutReached = s.timeoutReached := rfl
@[simp] theorem State.endWith_frameLength (s : State) (c : Byte) : (s.endWith c).frameLength = s.frameLength := rfl
@[simp] theorem State.endWith_status (s : State) (c : Byte) : (s.endWith c).status = s.status := rfl

@[simp] theorem State.emit_readByte (s : State) (e : Event) (a : Nat) :
    (s.emit e).readByte a = s.readByte a := rfl
@[simp] theorem State.emit_pbufByte (s : State) (e : Event) (k : Nat) :
    (s.emit e).pbufByte k = s.pbufByte k := rfl
@[simp] theorem State.emit_fbufByte (s : State) (e : Event) (k : Nat) :
    (s.emit e).fbufByte k = s.fbufByte k := rfl
@[simp] theorem State.emit_payload (s : State) (e : Event) : (s.emit e).payload = s.payload := rfl
@[simp] theorem State.emit_message (s : State) (e : Event) : (s.emit e).message = s.message := rfl
@[simp] theorem State.emit_frameBytes (s : State) (e : Event) : (s.emit e).frameBytes = s.frameBytes := rfl
@[simp] theorem State.emit_sendReady (s : State) (e : Event) : (s.emit e).sendReady = s.sendReady := rfl
@[simp] theorem State.emit_regionKnown (s : State) (e : Event) : (s.emit e).regionKnown = s.regionKnown := rfl
@[simp] theorem State.emit_channelCount (s : State) (e : Event) : (s.emit e).channelCount = s.channelCount := rfl
@[simp] theorem State.emit_timeoutReached (s : State) (e : Event) : (s.emit e).timeoutReached = s.timeoutReached := rfl
@[simp] theorem State.emit_frameLength (s : State) (e : Event) : (s.emit e).frameLength = s.frameLength := rfl
@[simp] theorem State.emit_status (s : State) (e : Event) : (s.emit e).status = s.status := rfl

@[simp] theorem State.hostRead_readByte (s : State) (a' : BitVec 16) (a : Nat) :
    (s.hostRead a').readByte a = s.readByte a := rfl
@[simp] theorem State.hostRead_pbufByte (s : State) (a' : BitVec 16) (k : Nat) :
    (s.hostRead a').pbufByte k = s.pbufByte k := rfl
@[simp] theorem State.hostRead_fbufByte (s : State) (a' : BitVec 16) (k : Nat) :
    (s.hostRead a').fbufByte k = s.fbufByte k := rfl
@[simp] theorem State.hostRead_payload (s : State) (a' : BitVec 16) : (s.hostRead a').payload = s.payload := rfl
@[simp] theorem State.hostRead_message (s : State) (a' : BitVec 16) : (s.hostRead a').message = s.message := rfl
@[simp] theorem State.hostRead_frameBytes (s : State) (a' : BitVec 16) : (s.hostRead a').frameBytes = s.frameBytes := rfl
@[simp] theorem State.hostRead_sendReady (s : State) (a' : BitVec 16) : (s.hostRead a').sendReady = s.sendReady := rfl
@[simp] theorem State.hostRead_regionKnown (s : State) (a' : BitVec 16) : (s.hostRead a').regionKnown = s.regionKnown := rfl
@[simp] theorem State.hostRead_channelCount (s : State) (a' : BitVec 16) : (s.hostRead a').channelCount = s.channelCount := rfl
@[simp] theorem State.hostRead_timeoutReached (s : State) (a' : BitVec 16) : (s.hostRead a').timeoutReached = s.timeoutReached := rfl
@[simp] theorem State.hostRead_frameLength (s : State) (a' : BitVec 16) : (s.hostRead a').frameLength = s.frameLength := rfl
@[simp] theorem State.hostRead_status (s : State) (a' : BitVec 16) : (s.hostRead a').status = s.status := rfl

/-- A buffer byte after memory is replaced. -/
@[simp] theorem State.setMem_readByte (s : State) (m : Memory) (a : Nat) :
    (s.setMem m).readByte a = (m.find? a).getD (unwrittenByte s.resets a) := rfl

/-- A buffer byte depends on memory and on the number of resets only. -/
theorem State.readByte_congr (s t : State) (a : Nat) (hm : s.mem.find? a = t.mem.find? a)
    (hr : s.resets = t.resets) : s.readByte a = t.readByte a := by
  simp [State.readByte, hm, hr]

end Sys2Proof.Machine
end

