-- ==== Sys2Proof/Laws/Memory.lean ====
section
/-! SUPPORT. What the memory operations do: read after write, and that every operation keeps the
canonical form and stays inside the buffers. -/

namespace Sys2Proof.Machine

theorem lookupCell_insertCell_same (a : Nat) (v : Byte) (l : List Host.Cell) :
    lookupCell a (insertCell a v l) = some v := by
  induction l with
  | nil => simp [insertCell, lookupCell]
  | cons c rest ih =>
    unfold insertCell
    split_ifs with h1 h2
    · simp [lookupCell]
    · simp [lookupCell]
    · simp [lookupCell, h2, ih]

theorem lookupCell_insertCell_other (a b : Nat) (v : Byte) (l : List Host.Cell) (h : b ≠ a) :
    lookupCell b (insertCell a v l) = lookupCell b l := by
  induction l with
  | nil => simp [insertCell, lookupCell, h]
  | cons c rest ih =>
    unfold insertCell
    split_ifs with h1 h2
    · simp [lookupCell, h]
    · subst h2; simp [lookupCell, h]
    · simp [lookupCell, ih]

theorem mem_insertCell (a : Nat) (v : Byte) (l : List Host.Cell) (c : Host.Cell)
    (h : c ∈ insertCell a v l) : c.1 = a ∨ c ∈ l := by
  induction l with
  | nil => simp [insertCell] at h; simp [h]
  | cons d rest ih =>
    unfold insertCell at h
    split_ifs at h with h1 h2
    · simp only [List.mem_cons] at h
      rcases h with rfl | h | h
      · exact .inl rfl
      · exact .inr (by simp [h])
      · exact .inr (by simp [h])
    · simp only [List.mem_cons] at h
      rcases h with rfl | h
      · exact .inl rfl
      · exact .inr (by simp [h])
    · simp only [List.mem_cons] at h
      rcases h with rfl | h
      · exact .inr (by simp)
      · rcases ih h with h | h
        · exact .inl h
        · exact .inr (by simp [h])

theorem insertCell_pairwise (a : Nat) (v : Byte) (l : List Host.Cell)
    (h : l.Pairwise fun x y => x.1 < y.1) : (insertCell a v l).Pairwise fun x y => x.1 < y.1 := by
  induction l with
  | nil => simp [insertCell]
  | cons c rest ih =>
    obtain ⟨hc, hr⟩ := List.pairwise_cons.1 h
    unfold insertCell
    split_ifs with h1 h2
    · refine List.pairwise_cons.2 ⟨fun x hx => ?_, h⟩
      rcases List.mem_cons.1 hx with rfl | hx
      · exact h1
      · exact h1.trans (hc x hx)
    · exact List.pairwise_cons.2 ⟨fun x hx => by subst h2; exact hc x hx, hr⟩
    · refine List.pairwise_cons.2 ⟨fun x hx => ?_, ih hr⟩
      rcases mem_insertCell a v rest x hx with hx | hx
      · rw [hx]; omega
      · exact hc x hx

/-- Reading the byte just written. -/
@[simp] theorem Memory.find_write_same (m : Memory) (a : Nat) (v : Byte) :
    (m.write a v).find? a = some v := lookupCell_insertCell_same a v m.cells

/-- A write leaves every other address alone. -/
theorem Memory.find_write_other (m : Memory) (a b : Nat) (v : Byte) (h : b ≠ a) :
    (m.write a v).find? b = m.find? b := lookupCell_insertCell_other a b v m.cells h

/-- A write keeps the canonical form. -/
theorem Memory.write_wf (m : Memory) (a : Nat) (v : Byte) (h : m.wf) : (m.write a v).wf :=
  insertCell_pairwise a v m.cells h

/-- A write inside the buffers keeps memory inside the buffers. -/
theorem Memory.write_mapped (m : Memory) (p : Params) (a : Nat) (v : Byte) (h : m.mapped p)
    (ha : inBuffers p a = true) : (m.write a v).mapped p := by
  intro c hc
  rcases mem_insertCell a v m.cells c hc with hc | hc
  · rw [hc]; exact ha
  · exact h c hc

/-- Consecutive writes leave every address outside them alone. -/
theorem Memory.find_writeBytes_other (bytes : List Byte) : ∀ (m : Memory) (a b : Nat),
    (b < a ∨ a + bytes.length ≤ b) → (m.writeBytes a bytes).find? b = m.find? b := by
  induction bytes with
  | nil => intro m a b _; rfl
  | cons v rest ih =>
    intro m a b h
    simp only [List.length_cons] at h
    rw [Memory.writeBytes, ih _ _ _ (by omega), Memory.find_write_other _ _ _ _ (by omega)]

/-- Consecutive writes leave byte `k` of the sequence at the `k`-th address. -/
theorem Memory.find_writeBytes_at (bytes : List Byte) : ∀ (m : Memory) (a k : Nat),
    k < bytes.length → (m.writeBytes a bytes).find? (a + k) = bytes[k]? := by
  induction bytes with
  | nil => intro m a k h; simp at h
  | cons v rest ih =>
    intro m a k h
    cases k with
    | zero =>
      rw [Memory.writeBytes, Memory.find_writeBytes_other _ _ _ _ (by omega)]
      simp
    | succ k =>
      simp only [List.length_cons] at h
      rw [Memory.writeBytes, show a + (k + 1) = (a + 1) + k by omega, ih _ _ _ (by omega)]
      simp

/-- Consecutive writes keep the canonical form. -/
theorem Memory.writeBytes_wf (bytes : List Byte) : ∀ (m : Memory) (a : Nat),
    m.wf → (m.writeBytes a bytes).wf := by
  induction bytes with
  | nil => intro m a h; exact h
  | cons v rest ih => intro m a h; exact ih _ _ (m.write_wf a v h)

/-- Consecutive writes inside the buffers keep memory inside the buffers. -/
theorem Memory.writeBytes_mapped (p : Params) (bytes : List Byte) : ∀ (m : Memory) (a : Nat), m.mapped p →
    (∀ k < bytes.length, inBuffers p (a + k) = true) → (m.writeBytes a bytes).mapped p := by
  induction bytes with
  | nil => intro m a h _; exact h
  | cons v rest ih =>
    intro m a h ha
    refine ih _ _ (m.write_mapped p a v h (by simpa using ha 0 (by simp))) fun k hk => ?_
    have := ha (k + 1) (by simpa using hk)
    rwa [show a + (k + 1) = a + 1 + k by omega] at this

/-- The bytes of the payload buffer lie inside the buffers. -/
theorem inBuffers_pbuf (p : Params) (k : Nat) (h : k < p.pbufSize) :
    inBuffers p (pbufBase + k) = true := by
  simp [inBuffers, h]

/-- The bytes of the frame buffer lie inside the buffers. -/
theorem inBuffers_fbuf (p : Params) (k : Nat) (h : k < Config.fifoCap) :
    inBuffers p (fbufBase + k) = true := by
  have : k < 64 := h
  simp [inBuffers, this]

/-- A byte of PBUF after PBUF is written from its start; the bytes beyond PBUF_SIZE are dropped. -/
theorem State.writePbuf_pbufByte (s : State) (bytes : List Byte) (k : Nat) :
    (s.writePbuf bytes).pbufByte k = ((bytes.take s.params.pbufSize)[k]?).getD (s.pbufByte k) := by
  unfold State.writePbuf
  generalize bytes.take s.params.pbufSize = bytes
  by_cases h : k < bytes.length
  · simp [State.pbufByte, Memory.find_writeBytes_at _ _ _ _ h, h]
  · simp [State.pbufByte, State.readByte, Nat.not_lt.1 h,
      Memory.find_writeBytes_other bytes s.mem pbufBase (pbufBase + k) (.inr (by omega))]

/-- Writing PBUF from its start keeps memory inside the buffers. -/
theorem State.writePbuf_mapped (s : State) (bytes : List Byte) (h : s.mem.mapped s.params) :
    (s.writePbuf bytes).mem.mapped s.params :=
  Memory.writeBytes_mapped _ _ _ _ h fun k hk => inBuffers_pbuf _ k (by
    rw [List.length_take] at hk; omega)

/-- A byte of FBUF after FBUF is written from its start. -/
theorem State.writeFbuf_fbufByte (s : State) (bytes : List Byte) (k : Nat) :
    (s.writeFbuf bytes).fbufByte k = (bytes[k]?).getD (s.fbufByte k) := by
  by_cases h : k < bytes.length
  · simp [State.writeFbuf, State.fbufByte, Memory.find_writeBytes_at _ _ _ _ h, h]
  · simp [State.writeFbuf, State.fbufByte, State.readByte, Nat.not_lt.1 h,
      Memory.find_writeBytes_other bytes s.mem fbufBase (fbufBase + k) (.inr (by omega))]

/-- An address outside the bytes written to PBUF keeps its byte. -/
theorem State.writePbuf_readByte_other (s : State) (bytes : List Byte) (a : Nat)
    (h : a < pbufBase ∨ pbufBase + (bytes.take s.params.pbufSize).length ≤ a) :
    (s.writePbuf bytes).readByte a = s.readByte a := by
  simp [State.writePbuf, State.readByte, Memory.find_writeBytes_other _ s.mem pbufBase a h]

/-- An address outside the bytes written to FBUF keeps its byte. -/
theorem State.writeFbuf_readByte_other (s : State) (bytes : List Byte) (a : Nat)
    (h : a < fbufBase ∨ fbufBase + bytes.length ≤ a) :
    (s.writeFbuf bytes).readByte a = s.readByte a := by
  simp [State.writeFbuf, State.readByte, Memory.find_writeBytes_other _ s.mem fbufBase a h]

end Sys2Proof.Machine
end

