-- ==== Sys2Proof/Laws/PerInstr.lean ====
section
/-! SUPPORT. Facts stated for every instruction as syntax, one lemma per constructor. -/

namespace Sys2Proof.Laws

/-- The command byte's two fields are the instruction's unit and function, and they decode to the
instruction (30_encoding.md R91, R92). -/
def CommandFields.Statement (i : Instr) : Prop :=
  unitField (encodeByte i) = i.unitCode.toNat ∧ funcField (encodeByte i) = i.funcCode.toNat ∧
    decodeFields i.unitCode.toNat i.funcCode.toNat = .ok i

theorem CommandFields.nop : CommandFields.Statement .nop := ⟨rfl, rfl, rfl⟩
theorem CommandFields.ldsess : CommandFields.Statement .ldsess := ⟨rfl, rfl, rfl⟩
theorem CommandFields.ksblk : CommandFields.Statement .ksblk := ⟨rfl, rfl, rfl⟩
theorem CommandFields.crypt : CommandFields.Statement .crypt := ⟨rfl, rfl, rfl⟩
theorem CommandFields.micgen : CommandFields.Statement .micgen := ⟨rfl, rfl, rfl⟩
theorem CommandFields.build : CommandFields.Statement .build := ⟨rfl, rfl, rfl⟩
theorem CommandFields.rinit : CommandFields.Statement .rinit := ⟨rfl, rfl, rfl⟩
theorem CommandFields.setdr : CommandFields.Statement .setdr := ⟨rfl, rfl, rfl⟩
theorem CommandFields.setch : CommandFields.Statement .setch := ⟨rfl, rfl, rfl⟩
theorem CommandFields.send : CommandFields.Statement .send := ⟨rfl, rfl, rfl⟩

end Sys2Proof.Laws
end

