-- ==== Sys2Proof/Laws/Steps.lean ====
section
/-! SUPPORT. What each shared operation, each command, each micro-step and each step of the machine
can do, said once, so that a proof about them need not unfold them. -/

namespace Sys2Proof.Machine

/-! ### The host register map -/

/-- No buffer stands below address 0x0100. -/
theorem locateLow_ne_buffer (n k : Nat) : locateLow n ≠ .pbuf k ∧ locateLow n ≠ .fbuf k := by
  unfold locateLow
  split <;> simp

theorem locateMiddle_ne_buffer (n k : Nat) :
    locateMiddle n ≠ .pbuf k ∧ locateMiddle n ≠ .fbuf k := by
  unfold locateMiddle
  split <;> simp

theorem locateGroups_ne_buffer (n k : Nat) :
    locateGroups n ≠ .pbuf k ∧ locateGroups n ≠ .fbuf k := by
  unfold locateGroups
  split_ifs <;> simp

/-- A buffer location stands at address 0x0100 or above. -/
theorem locate_buffer {a : BitVec 16} {k : Nat} (h : locate a = .pbuf k ∨ locate a = .fbuf k) :
    0x100 ≤ a.toNat ∧ locate a = locateBuffers a.toNat := by
  unfold locate at h ⊢
  split_ifs at h ⊢ with h1 h2 h3
  · exact absurd h (by simp [locateLow_ne_buffer])
  · exact absurd h (by simp [locateMiddle_ne_buffer])
  · exact absurd h (by simp [locateGroups_ne_buffer])
  · exact ⟨by omega, rfl⟩

/-- A PBUF location is PBUF[k] at its address, `k < 255`. -/
theorem locate_pbuf {a : BitVec 16} {k : Nat} (h : locate a = .pbuf k) :
    k < 255 ∧ a.toNat = pbufBase + k := by
  obtain ⟨ha, hl⟩ := locate_buffer (.inl h)
  rw [hl] at h
  unfold locateBuffers at h
  split_ifs at h with h1 h2 h3
  simp only [HostLoc.pbuf.injEq] at h
  unfold pbufBase
  omega

/-- An FBUF location is FBUF[k] at its address, `k < 64`. -/
theorem locate_fbuf {a : BitVec 16} {k : Nat} (h : locate a = .fbuf k) :
    k < Config.fifoCap ∧ a.toNat = fbufBase + k := by
  obtain ⟨ha, hl⟩ := locate_buffer (.inr h)
  rw [hl] at h
  unfold locateBuffers at h
  split_ifs at h with h1 h2 h3
  simp only [HostLoc.fbuf.injEq] at h
  unfold fbufBase Config.fifoCap
  omega

/-- A host write reaches operand registers, credentials, the buffers and FVALID, and nothing else. -/
theorem State.store_keeps (s : State) (loc : HostLoc) (v : Byte) :
    { s.store loc v with
      dir := s.dir, port := s.port, fcnt := s.fcnt, plen := s.plen, blkidx := s.blkidx,
      mlen := s.mlen, drsel := s.drsel, chsel := s.chsel, tmo := s.tmo, region := s.region,
      devaddr := s.devaddr, nwkskey := s.nwkskey, appskey := s.appskey, mem := s.mem,
      fvalid := s.fvalid } = s := by
  cases loc <;> simp only [State.store] <;> (try split_ifs) <;> rfl

/-- A host write leaves the credentials alone while a session is loaded. -/
theorem State.store_credentials (s : State) (loc : HostLoc) (v : Byte) (h : s.sess = true) :
    (s.store loc v).devaddr = s.devaddr ∧ (s.store loc v).nwkskey = s.nwkskey ∧
    (s.store loc v).appskey = s.appskey ∧ (s.store loc v).region = s.region := by
  cases loc <;> simp only [State.store, h, if_true] <;> (try split_ifs) <;> simp

/-- A host write never sets FVALID. -/
theorem State.store_fvalid (s : State) (loc : HostLoc) (v : Byte)
    (h : (s.store loc v).fvalid = true) : s.fvalid = true := by
  cases loc <;> simp only [State.store] at h <;> (try split_ifs at h) <;> simp_all

/-- What a host write leaves in memory: the buffer byte written, or all as before. -/
theorem State.store_mem (s : State) (loc : HostLoc) (v : Byte) :
    (∃ k, loc = .pbuf k ∧ k < s.params.pbufSize ∧ (s.store loc v).mem = s.mem.write (pbufBase + k) v) ∨
    (∃ k, loc = .fbuf k ∧ (s.store loc v).mem = s.mem.write (fbufBase + k) v) ∨
    (s.store loc v).mem = s.mem := by
  cases loc <;> simp only [State.store] <;> (try split_ifs) <;> simp [*]

/-! ### The environment's answers -/

/-- A draw among at least one channel is in range (44_radio.md R246). -/
theorem State.draw_lt (s : State) (n : Nat) (h : 0 < n) : s.draw n < n := Nat.mod_lt _ h

/-- A channel exists at every index below the region's count. -/
theorem Params.channel?_isSome (p : Params) (r k : Nat) (h : k < p.nCh r) :
    ∃ t, p.channel? r k = some t := by
  unfold Params.nCh at h
  unfold Params.channel?
  split at h
  · rename_i plan hp
    simp [h]
  · exact absurd h (Nat.not_lt_zero k)

/-- A recognised region has at least one channel (00_scope.md R9). -/
theorem Params.nCh_pos (p : Params) (r : Nat) (h : r < p.nRegion) : 0 < p.nCh r := by
  unfold Params.nCh
  rw [List.getElem?_eq_getElem (show r < p.chTable.length from h)]
  simp [ChannelPlan.channels]

/-! ### The commands at issue -/

theorem execLdsess_cases {s t : State} (h : execLdsess s = .next t) :
    (s.sess = true ∧ t = s.endWith 0) ∨
    (s.sess = false ∧ s.regionKnown = true ∧ t = { s with sess := true }.endWith 0) ∨
    (s.sess = false ∧ s.regionKnown = false ∧ t = s.endWith 2) := by
  unfold execLdsess at h
  split_ifs at h with h1 h2 <;> cases h
  · exact .inl ⟨h1, rfl⟩
  · exact .inr (.inl ⟨by simpa using h1, h2, rfl⟩)
  · exact .inr (.inr ⟨by simpa using h1, by simpa using h2, rfl⟩)

theorem execKsblk_cases {s t : State} (h : execKsblk s = .next t) :
    (s.sess = false ∧ t = s.endWith 7) ∨
    (s.sess = true ∧ t = { s with
      ks := keystreamBlock s.params s.appskey s.dir s.devaddr s.fcnt s.blkidx.toNat }.endWith 0) := by
  unfold execKsblk at h
  split_ifs at h with h1 <;> cases h
  · exact .inr ⟨h1, rfl⟩
  · exact .inl ⟨by simpa using h1, rfl⟩

theorem execCrypt_cases {s t : State} (h : execCrypt s = .next t) :
    (s.sess = false ∧ t = s.endWith 7) ∨
    (s.sess = true ∧ t = (s.writePbuf
      (cryptBytes s.params s.appskey s.dir s.devaddr s.fcnt s.payload)).endWith 0) := by
  unfold execCrypt at h
  split_ifs at h with h1 <;> cases h
  · exact .inr ⟨h1, rfl⟩
  · exact .inl ⟨by simpa using h1, rfl⟩

theorem execMicgen_cases {s t : State} (h : execMicgen s = .next t) :
    (s.sess = false ∧ t = s.endWith 7) ∨
    (s.sess = true ∧ s.mlen.toNat ≤ Config.fifoCap ∧ t = { s with
      mic := mic4 s.params s.nwkskey s.devaddr s.fcnt s.message }.endWith 0) := by
  unfold execMicgen at h
  split_ifs at h with h1 h2 <;> cases h
  · exact .inr ⟨h1, h2, rfl⟩
  · exact .inl ⟨by simpa using h1, rfl⟩

theorem execBuild_cases {s t : State} (h : execBuild s = .next t) :
    (s.sess = false ∧ t = s.endWith 7) ∨
    (s.sess = true ∧ Config.fifoCap < s.frameLength ∧
      t = { s with fvalid := false, flen := 0 }.endWith 4) ∨
    (s.sess = true ∧ s.frameLength ≤ Config.fifoCap ∧
      t = { s.setMem (s.mem.writeBytes fbufBase
              (frame s.params s.appskey s.nwkskey s.devaddr s.port s.fcnt s.payload)) with
            mic := frameMic s.params s.appskey s.nwkskey s.devaddr s.port s.fcnt s.payload
            flen := BitVec.ofNat 8 s.frameLength
            fvalid := true }.endWith 0) := by
  unfold execBuild at h
  split_ifs at h with h1 h2 <;> cases h
  · exact .inr (.inl ⟨h1, h2, rfl⟩)
  · exact .inr (.inr ⟨h1, by omega, rfl⟩)
  · exact .inl ⟨by simpa using h1, rfl⟩

theorem execSetdr_cases {s t : State} (h : execSetdr s = .next t) :
    (∃ d, s.profile? = some d ∧ t = { s with drcfg := d }.endWith 0) ∨
    (s.profile? = none ∧ t = s.endWith 3) := by
  unfold execSetdr at h
  split at h <;> cases h
  · exact .inl ⟨_, ‹_›, rfl⟩
  · exact .inr ⟨‹_›, rfl⟩

theorem execSetch_cases {s t : State} (h : execSetch s = .next t) :
    (s.sess = false ∧ t = s.endWith 7) ∨
    (s.sess = true ∧ ∃ c, s.channel? s.chsel.toNat = some c ∧
      t = { s with chcfg := c, chmode := true }.endWith 0) := by
  unfold execSetch at h
  split_ifs at h with h1
  · split at h <;> cases h
    exact .inr ⟨h1, _, ‹_›, rfl⟩
  · cases h
    exact .inl ⟨by simpa using h1, rfl⟩

theorem execSend_cases {s t : State} (h : execSend s = .next t) :
    (s.sendReady = true ∧ t = { s with busy := true, seq := .sStdby }) ∨
    (s.sendReady = false ∧ t = s.endWith 7) := by
  unfold execSend at h
  split_ifs at h with h1 <;> cases h
  · exact .inl ⟨h1, rfl⟩
  · exact .inr ⟨by simpa using h1, rfl⟩

/-- No command ends in a fault. -/
theorem exec_ne_fault (i : Instr) (s : State) (f : Fault) : exec i s ≠ .fault f := by
  cases i <;>
    simp only [exec, execNop, execLdsess, execKsblk, execCrypt, execMicgen, execBuild, execRinit,
      execSetdr, execSetch, execSend] <;>
    (repeat' split) <;> simp

/-! ### The engine's turn, phase by phase -/

theorem engineTurn_idle {s : State} (h : s.seq = .idle) : engineTurn s = .next s := by
  simp [engineTurn, h]

theorem engineTurn_iVer {s : State} (h : s.seq = .iVer) : engineTurn s = .next (microVersion s) := by
  simp [engineTurn, h]

theorem engineTurn_iRstA {s : State} (h : s.seq = .iRstA) : engineTurn s = .next (microResetAssert s) := by
  simp [engineTurn, h]

theorem engineTurn_iRstB {s : State} (h : s.seq = .iRstB) : engineTurn s = .next (microResetRelease s) := by
  simp [engineTurn, h]

theorem engineTurn_iBase {s : State} (h : s.seq = .iBase) : engineTurn s = .next (microBaseline s) := by
  simp [engineTurn, h]

theorem engineTurn_sStdby {s : State} (h : s.seq = .sStdby) : engineTurn s = .next (microStandby s) := by
  simp [engineTurn, h]

theorem engineTurn_sChsel {s : State} (h : s.seq = .sChsel) : engineTurn s = microChannel s := by
  simp [engineTurn, h]

theorem engineTurn_sProg {s : State} (h : s.seq = .sProg) : engineTurn s = microConfigure s := by
  simp [engineTurn, h]

theorem engineTurn_sFifo {s : State} (h : s.seq = .sFifo) : engineTurn s = microFifo s := by
  simp [engineTurn, h]

theorem engineTurn_sTxgo {s : State} (h : s.seq = .sTxgo) : engineTurn s = .next (microTransmit s) := by
  simp [engineTurn, h]

theorem engineTurn_sPoll {s : State} (h : s.seq = .sPoll) : engineTurn s = .next (microPoll s) := by
  simp [engineTurn, h]

theorem engineTurn_sSleep {s : State} (h : s.seq = .sSleep) : engineTurn s = .next (microSleep s) := by
  simp [engineTurn, h]

/-! ### The micro-steps that can stop -/

theorem microChannel_cases {s t : State} (h : microChannel s = .next t) :
    (s.chmode = true ∧ t = { s with fidx := 0, seq := .sProg }) ∨
    (s.chmode = false ∧ 0 < s.channelCount ∧
      ∃ c, s.channel? (s.draw s.channelCount) = some c ∧
        t = { s.drawChannel s.channelCount with chcfg := c, fidx := 0, seq := .sProg }) := by
  unfold microChannel at h
  split_ifs at h with h1 h2
  · cases h; exact .inl ⟨h1, rfl⟩
  · split at h <;> cases h
    exact .inr ⟨by simpa using h1, by omega, _, ‹_›, rfl⟩

theorem configurationWrite_isSome (s : State) (k : Nat) :
    (∃ w, configurationWrite s k = some w) ↔ k ≤ 6 := by
  constructor
  · rintro ⟨w, hw⟩
    by_contra hk
    obtain ⟨j, rfl⟩ : ∃ j, k = j + 7 := ⟨k - 7, by omega⟩
    simp [configurationWrite] at hw
  · intro hk
    interval_cases k <;> simp [configurationWrite]

theorem microConfigure_cases {s t : State} (h : microConfigure s = .next t) :
    ∃ w, configurationWrite s s.fidx.toNat = some w ∧
      ((s.fidx.toNat = 6 ∧ t = { s.emit (.busWrite w.1 w.2) with fidx := 0, seq := .sFifo }) ∨
       (s.fidx.toNat ≠ 6 ∧ t = { s.emit (.busWrite w.1 w.2) with fidx := s.fidx + 1 })) := by
  unfold microConfigure at h
  split at h
  · split_ifs at h with h1 <;> cases h
    · exact ⟨_, ‹_›, .inl ⟨h1, rfl⟩⟩
    · exact ⟨_, ‹_›, .inr ⟨h1, rfl⟩⟩
  · cases h

theorem microFifo_cases {s t : State} (h : microFifo s = .next t) :
    (s.fidx.toNat < s.flen.toNat ∧ s.fidx.toNat < Config.fifoCap ∧
      t = { s.emit (.busWrite s.params.regFifo (s.fbufByte s.fidx.toNat)) with fidx := s.fidx + 1 }) ∨
    (s.flen.toNat ≤ s.fidx.toNat ∧ t = { s with seq := .sTxgo }) := by
  unfold microFifo at h
  split_ifs at h with h1 h2 <;> cases h
  · exact .inl ⟨h1, h2, rfl⟩
  · exact .inr ⟨by omega, rfl⟩

/-! ### Issuing, turns and steps -/

theorem issueCommand_cases {c : Byte} {s t : State} (h : issueCommand c s = .next t) :
    (∃ i, decodeByte c = .ok i ∧ exec i s = .next t) ∨
    (∃ e, decodeByte c = .error e ∧ t = s.endWith 6) := by
  unfold issueCommand decode at h
  cases hd : decodeByte c with
  | ok i => simp only [hd] at h; exact .inl ⟨i, rfl, h⟩
  | error e => simp only [hd] at h; cases h; exact .inr ⟨e, rfl, rfl⟩

theorem hostWrite_cases {a : BitVec 16} {v : Byte} {s t : State} (h : hostWrite a v s = .next t) :
    s.busy = false ∧
      ((locate a = .cmd ∧ issueCommand v s = .next t) ∨
       (locate a ≠ .cmd ∧ t = s.store (locate a) v)) := by
  unfold hostWrite at h
  split_ifs at h with h1
  refine ⟨by simpa using h1, ?_⟩
  split at h
  · exact .inl ⟨‹_›, h⟩
  · cases h
    exact .inr ⟨by assumption, rfl⟩

/-- What one step can do: the engine's own turn when nothing is pending, else the first pending
turn. -/
theorem step_cases {s : State} {o : Host.Outcome State Fault Refusal} (h : step s = o) :
    (s.agenda = [] ∧ engineTurn s = o) ∨
    (∃ t rest, s.agenda = t :: rest ∧ takeTurn t { s with agenda := rest } = o) := by
  unfold step advance at h
  split at h
  · exact .inl ⟨‹_›, h⟩
  · exact .inr ⟨_, _, ‹_›, h⟩

/-- A step with nothing pending is the engine's turn. -/
theorem step_of_agenda_nil {s : State} (h : s.agenda = []) : step s = engineTurn s := by
  simp [step, advance, h]

/-- A step with a turn pending is that turn. -/
theorem step_of_agenda_cons {s : State} {t : Turn} {rest : List Turn} (h : s.agenda = t :: rest) :
    step s = takeTurn t { s with agenda := rest } := by
  simp [step, advance, h]

/-- A step whose turn is the engine's, whether it stands in the agenda or nothing is pending. -/
theorem step_of_engineNext {s : State} (h : s.engineNext) :
    step s = engineTurn { s with agenda := s.agenda.tail } := by
  rcases ha : s.agenda with _ | ⟨t, rest⟩
  · rcases s
    subst ha
    rfl
  · obtain rfl : t = .engine := by simpa [State.engineNext, ha] using h
    exact step_of_agenda_cons ha

/-! ### Runs and their events -/

@[simp] theorem pollEvents_nil : pollEvents [] = [] := rfl

@[simp] theorem pollEvents_cons (w : Nat) (ws : List Nat) :
    pollEvents (w :: ws) = .sampleTxDone false :: .delay w :: pollEvents ws := rfl

theorem runSteps_one (s : State) : runSteps 1 s = step s := by
  simp only [runSteps]
  cases step s <;> rfl

/-- A run is its first steps and then the rest. -/
theorem runSteps_add {m n : Nat} {s t : State} {o : Host.Outcome State Fault Refusal}
    (h : runSteps m s = .next t) (ho : runSteps n t = o) : runSteps (m + n) s = o := by
  induction m generalizing s with
  | zero =>
    cases h
    rwa [Nat.zero_add]
  | succ m ih =>
    rw [Nat.add_right_comm]
    simp only [runSteps] at h ⊢
    cases hs : step s <;> simp only [hs] at h ⊢
    · exact ih h
    · cases h
    · cases h

end Sys2Proof.Machine
end

