-- ==== Sys2Proof/Tests/Slice0.lean ====
section
/-! SUPPORT. Tests, each on one step or one function, with the values of 95_test_vectors.md; the
refusals of ill-formed parameters; and for every obligation with hypotheses a theorem that shows
operands and a state which meet them, at the ends of their ranges. -/

namespace Sys2Proof.Tests

open Sys2Proof.Machine

/-! ## States to start from -/

/-- The spec's test parameter set TP; addresses, mode values and durations it leaves symbolic are
numbers of this file. -/
def tp : Params where
  mhdr := 0x40
  tagA := 0x01
  tagB := 0x49
  ctrBase := 0
  dirUp := false
  pbufSize := 255
  region0 := ⟨⟨0xD9, 0x06, 0x8B⟩, [⟨0xD9, 0x13, 0x58⟩, ⟨0xD9, 0x20, 0x24⟩]⟩
  moreRegions := [⟨⟨0xE1, 0xF9, 0xC0⟩, []⟩]
  profile0 := ⟨"DR_A", ⟨0x74, 0x72, 0x04⟩⟩
  moreProfiles := [⟨"DR_B", ⟨0x84, 0x72, 0x04⟩⟩, ⟨"DR_C", ⟨0xC4, 0x72, 0x0C⟩⟩]
  drDefault := 0
  regVersion := 0x42
  versionExpected := 0x12
  regOpmode := 0x01
  opmSleep := 0x80
  opmStdby := 0x81
  opmTx := 0x83
  regFrf0 := 0x06
  regFrf1 := 0x07
  regFrf2 := 0x08
  regDr0 := 0x1E
  regDr1 := 0x1D
  regDr2 := 0x26
  regPaylen := 0x22
  regFifo := 0x00
  baseline := [⟨0x0B, 0xA0⟩, ⟨0x0C, 0xA1⟩]
  tRst1 := 10
  tRst2 := 20
  tTick := 5
  tPoll := 3

/-- TP's reset state. -/
def start : State := State.resetWith tp

/-- A loaded session with credential set KZ. -/
def kz : State := { start with sess := true, devaddr := 0x00112233 }

/-- Credential set K1. -/
def k1 : State := { start with
  sess := true
  devaddr := 0x26011BDA
  nwkskey := ⟨⟨0x2B, 0x7E, 0x15, 0x16⟩, ⟨0x28, 0xAE, 0xD2, 0xA6⟩, ⟨0xAB, 0xF7, 0x15, 0x88⟩, ⟨0x09, 0xCF, 0x4F, 0x3C⟩⟩
  appskey := ⟨⟨0x00, 0x01, 0x02, 0x03⟩, ⟨0x04, 0x05, 0x06, 0x07⟩, ⟨0x08, 0x09, 0x0A, 0x0B⟩, ⟨0x0C, 0x0D, 0x0E, 0x0F⟩⟩ }

/-- An idle engine with a session, an initialised radio and a frame of `n` bytes. -/
def armed (n : Byte) : State := { start with sess := true, ready := true, fvalid := true, flen := n }

/-- The same engine while SEND runs, at a phase. -/
def sending (p : Phase) : State := { armed 64 with busy := true, seq := p, mode := p.commandedMode }

/-- A property of the next state, false of a stop. -/
def after (o : Host.Outcome State Fault Refusal) (p : State → Bool) : Bool :=
  match o with
  | .next t => p t
  | .fault _ => false
  | .refused _ => false

/-! ## Decoding and encoding: the bytes of 30_encoding.md R92 written out, unit then function -/

theorem test_decode_nop : decode [0b0000_0000] = .ok (.nop, []) := rfl
theorem test_decode_ldsess : decode [0b0000_0001] = .ok (.ldsess, []) := rfl
theorem test_decode_ksblk : decode [0b0001_0000] = .ok (.ksblk, []) := rfl
theorem test_decode_crypt : decode [0b0001_0001] = .ok (.crypt, []) := rfl
theorem test_decode_micgen : decode [0b0010_0000] = .ok (.micgen, []) := rfl
theorem test_decode_build : decode [0b0011_0000] = .ok (.build, []) := rfl
theorem test_decode_rinit : decode [0b0100_0000] = .ok (.rinit, []) := rfl
theorem test_decode_setdr : decode [0b0100_0001] = .ok (.setdr, []) := rfl
theorem test_decode_setch : decode [0b0100_0010] = .ok (.setch, []) := rfl
theorem test_decode_send : decode [0b0100_0011] = .ok (.send, []) := rfl

theorem test_decode_reserved_function :
    decode [0x0F] = .error (.reservedFunction 0 15) ∧ decode [0x12] = .error (.reservedFunction 1 2) ∧
    decode [0x21] = .error (.reservedFunction 2 1) ∧ decode [0x31] = .error (.reservedFunction 3 1) ∧
    decode [0x44] = .error (.reservedFunction 4 4) := ⟨rfl, rfl, rfl, rfl, rfl⟩

theorem test_decode_reserved_unit :
    decode [0x50] = .error (.reservedUnit 5) ∧ decode [0x80] = .error (.reservedUnit 8) ∧
    decode [0xFF] = .error (.reservedUnit 15) ∧ decode [] = .error .noByte := ⟨rfl, rfl, rfl, rfl⟩

theorem test_decode_keeps_the_rest : decode [0x43, 0x00, 0xFF] = .ok (.send, [0x00, 0xFF]) := rfl

theorem test_tableWord : decodeTableWord 8 0x42 = some .setch ∧ decodeTableWord 8 0x02 = none :=
  ⟨rfl, rfl⟩

/-! ## Well-formedness: each check refuses an ill-formed installation -/

theorem test_tp_wellFormed : tp.wellFormed = true := by decide
theorem test_commands_wellFormed : Instr.send.wellFormed = true := by decide
theorem test_default_outside_the_table : { tp with drDefault := 3 }.defaultInTable = false := by decide
theorem test_repeated_name :
    { tp with moreProfiles := [⟨"DR_A", ⟨0, 0, 0⟩⟩] }.namesDistinct = false := by decide
theorem test_repeated_mode : { tp with opmTx := 0x81 }.modesDistinct = false := by decide
theorem test_uplink_direction : { tp with dirUp := true }.uplinkIsZero = false := by decide
theorem test_large_buffer : { tp with pbufSize := 256 }.bufferInMap = false := by decide
theorem test_long_baseline :
    { tp with baseline := List.replicate 256 ⟨0, 0⟩ }.baselineIndexable = false := by decide +kernel

/-! ## The cipher and CMAC: the public values of 95_test_vectors.md section 2 -/

theorem test_aes_fips197_b :
    aes k1.nwkskey
      ⟨⟨0x32, 0x43, 0xF6, 0xA8⟩, ⟨0x88, 0x5A, 0x30, 0x8D⟩, ⟨0x31, 0x31, 0x98, 0xA2⟩, ⟨0xE0, 0x37, 0x07, 0x34⟩⟩ =
    ⟨⟨0x39, 0x25, 0x84, 0x1D⟩, ⟨0x02, 0xDC, 0x09, 0xFB⟩, ⟨0xDC, 0x11, 0x85, 0x97⟩, ⟨0x19, 0x6A, 0x0B, 0x32⟩⟩ := by
  decide +kernel

theorem test_cmac_rfc4493_empty :
    cmac k1.nwkskey [] =
    ⟨⟨0xBB, 0x1D, 0x69, 0x29⟩, ⟨0xE9, 0x59, 0x37, 0x28⟩, ⟨0x7F, 0xA3, 0x7D, 0x12⟩, ⟨0x9B, 0x75, 0x67, 0x46⟩⟩ := by
  decide +kernel

theorem test_cmac_rfc4493_16 :
    cmac k1.nwkskey
      [0x6B, 0xC1, 0xBE, 0xE2, 0x2E, 0x40, 0x9F, 0x96, 0xE9, 0x3D, 0x7E, 0x11, 0x73, 0x93, 0x17, 0x2A] =
    ⟨⟨0x07, 0x0A, 0x16, 0xB4⟩, ⟨0x6B, 0x4D, 0x41, 0x44⟩, ⟨0xF7, 0x9B, 0xDD, 0x9D⟩, ⟨0xD0, 0x4A, 0x28, 0x7C⟩⟩ := by
  decide +kernel

/-! ## One step of each command -/

/-- V1. -/
theorem test_nop : after (exec .nop { start with err := 5 }) (·.err == 0) = true := by decide

/-- V2. -/
theorem test_ldsess : after (exec .ldsess start) (fun t => t.status == 0x02 && t.err == 0) = true := by
  decide +kernel

/-- V4: REGION = N_REGION. -/
theorem test_ldsess_region :
    after (exec .ldsess { start with region := 2 }) (fun t => !t.sess && t.err == 2) = true := by
  decide +kernel

/-- Section 3.2, set KZ: DIR 0, FCNT 0, BLKIDX 255. -/
theorem test_ksblk :
    after (exec .ksblk { kz with blkidx := 255 }) (fun t => t.ks ==
      ⟨⟨0xEC, 0xFE, 0x38, 0x01⟩, ⟨0x8F, 0x70, 0x8B, 0xDA⟩, ⟨0xC5, 0x8F, 0x70, 0xCB⟩, ⟨0x91, 0x55, 0xD8, 0xB5⟩⟩)
      = true := by decide +kernel

/-- Section 3.2, set KZ: DIR 1, FCNT 0, BLKIDX 0. -/
theorem test_ksblk_dir :
    after (exec .ksblk { kz with dir := true }) (fun t => t.ks ==
      ⟨⟨0xE9, 0x79, 0x0A, 0x1B⟩, ⟨0x57, 0x28, 0xF2, 0x24⟩, ⟨0xA4, 0x75, 0xC6, 0x47⟩, ⟨0x44, 0x37, 0x59, 0xFC⟩⟩)
      = true := by decide +kernel

/-- E1, set K1: seventeen bytes, so the second keystream block is used. -/
theorem test_crypt :
    after (exec .crypt { k1.writePbuf ((List.range 17).map (BitVec.ofNat 8)) with fcnt := 0x0102, plen := 17 })
      (fun t => t.payload == [0x7F, 0x57, 0xE8, 0xE4, 0x2C, 0xD6, 0x8E, 0xB7, 0x96, 0xFD, 0x75, 0xCA,
        0xD3, 0xF0, 0xA6, 0x15, 0x5D] && t.err == 0) = true := by decide +kernel

/-- E2, set KZ: eleven bytes. -/
theorem test_micgen :
    after (exec .micgen { kz.writeFbuf [0x40, 0x33, 0x22, 0x11, 0, 0, 0, 0, 0x01, 0x68, 0x31] with mlen := 11 })
      (fun t => t.mic == ⟨0x69, 0x1D, 0x98, 0x1F⟩ && t.err == 0) = true := by decide +kernel

/-- Section 3.3: the whole frame buffer, set KZ, FBUF[j] = j. -/
theorem test_micgen_64 :
    after (exec .micgen { kz.writeFbuf ((List.range 64).map (BitVec.ofNat 8)) with mlen := 64 })
      (fun t => t.mic == ⟨0xB5, 0x3D, 0xF1, 0x0B⟩) = true := by decide +kernel

/-- E4, set KZ. -/
theorem test_build :
    after (exec .build { kz.writePbuf [0x01, 0x02] with plen := 2, port := 1, fcnt := 5 })
      (fun t => t.frameBytes == [0x40, 0x33, 0x22, 0x11, 0x00, 0x00, 0x05, 0x00, 0x01, 0xD4, 0x37, 0x93,
        0x8C, 0x59, 0xA2] && t.fvalid && t.mic == ⟨0x93, 0x8C, 0x59, 0xA2⟩) = true := by decide +kernel

/-- E5: PLEN = 52. -/
theorem test_build_oversize :
    after (exec .build { armed 64 with plen := 52 })
      (fun t => t.err == 4 && t.flen == 0 && !t.fvalid) = true := by decide

/-- V40, the issue: nothing but BUSY and SEQ. -/
theorem test_rinit : exec .rinit start = .next { start with busy := true, seq := .iVer } := rfl

/-- V42: another version byte. -/
theorem test_rinit_version :
    after (step { start with busy := true, seq := .iVer, ready := true, busAnswers := [0x13] })
      (fun t => t.trace == [.busRead 0x42 0x13] && !t.ready && !t.busy && t.err == 1) = true := by
  decide +kernel

/-- V32: the last profile. -/
theorem test_setdr :
    after (exec .setdr { start with drsel := 2 }) (fun t => t.drcfg == ⟨0xC4, 0x72, 0x0C⟩ && t.err == 0)
      = true := by decide

/-- E6, V33: DRSEL = N_DR. -/
theorem test_setdr_unknown :
    after (exec .setdr { start with drsel := 3 }) (fun t => t.drcfg == start.drcfg && t.err == 3)
      = true := by decide

/-- V35. -/
theorem test_setch :
    after (exec .setch { armed 64 with chsel := 1 })
      (fun t => t.chcfg == ⟨0xD9, 0x13, 0x58⟩ && t.chmode && t.err == 0) = true := by decide

/-- V38 (93_implementation_defined.md U1): CHSEL = N_CH(0). -/
theorem test_setch_range : exec .setch { armed 64 with chsel := 3 } = .refused .channelIndexOutOfRange := rfl

/-- V50: no valid frame. -/
theorem test_send_not_ready :
    after (exec .send { armed 64 with fvalid := false }) (fun t => t.err == 7 && !t.busy) = true := by decide

/-- V62: the draw answers 2. -/
theorem test_send_draw :
    after (step { sending .sChsel with drawAnswers := [2] })
      (fun t => t.chcfg == ⟨0xD9, 0x20, 0x24⟩ && t.trace == [.drawChannel 3 2]) = true := by
  decide +kernel

/-! ## Other steps -/

/-- V55: the signal is looked at before the time. -/
theorem test_poll_signal_first :
    after (step { sending .sPoll with tmo := 3, elapsed := 3, txDoneAnswers := [true] })
      (fun t => t.seq == .sSleep && !t.timedout) = true := by decide +kernel

/-- V57: ELAPSED saturates. -/
theorem test_tick_saturates :
    after (step { sending .sPoll with elapsed := 0xFFFF, agenda := [.tick] }) (·.elapsed == 0xFFFF)
      = true := by decide +kernel

/-- V72: DIR keeps bit 0 alone. -/
theorem test_write_dir :
    after (step { start with agenda := [.hostWrite 0x0004 0xFF] }) (fun t => t.load .dir == 1) = true := by
  decide +kernel

/-- V79, the third byte. -/
theorem test_write_devaddr :
    after (step { start with devaddr := 0x2233, agenda := [.hostWrite 0x0012 0x11] })
      (·.devaddr == 0x112233) = true := by decide +kernel

/-- V77. -/
theorem test_write_fbuf :
    after (step { armed 64 with agenda := [.hostWrite 0x023F 0x5A] })
      (fun t => t.fbufByte 63 == 0x5A && !t.fvalid) = true := by decide +kernel

/-- The start of program P1 and its accesses (30_encoding.md R97: least-significant byte first). -/
theorem test_assembler :
    programAccesses [.ldaddr 0x00112233, .wr .region 0, .command .ldsess] =
      [.hostWrite 0x0010 0x33, .hostWrite 0x0011 0x22, .hostWrite 0x0012 0x11, .hostWrite 0x0013 0x00,
       .hostWrite 0x000F 0x00, .hostWrite 0x0000 0x01] := by decide

/-- The first command after reset. -/
theorem test_first_command :
    after (step (State.reset.withFetchWord 8 0x40)) (fun t => t.busy && t.seq == .iVer) = true := rfl

/-! ## Witnesses of the obligations' hypotheses -/

theorem witness_ReservedByteIsIllegalCommand :
    (∀ c : Byte, ∃ s : State, s.agenda = .hostWrite 0x0000 c :: [] ∧ s.busy = false) ∧
    ∀ c ∈ [(0x02 : Byte), 0x0F, 0x12, 0x21, 0x31, 0x44, 0x50, 0xFF],
      c ∉ [(0x00 : Byte), 0x01, 0x10, 0x11, 0x20, 0x30, 0x40, 0x41, 0x42, 0x43] :=
  ⟨fun c => ⟨{ start with agenda := [.hostWrite 0x0000 c] }, rfl, rfl⟩, by decide⟩

theorem witness_StepRunsTheDecodedCommand :
    { start with agenda := [.hostWrite 0x0000 0x43] }.agenda = .hostWrite 0x0000 0x43 :: [] ∧
    start.busy = false ∧ decode [0x43] = .ok (.send, []) := ⟨rfl, rfl, rfl⟩

theorem witness_LdsessConstructsTheSession :
    ({ start with region := 1 }.sess = false ∧ (1 : Byte).toNat < start.params.nRegion) ∧
    ({ start with region := 2 }.sess = false ∧ start.params.nRegion ≤ (2 : Byte).toNat) ∧
    kz.sess = true := by decide

theorem witness_NotReadyChangesOnlyErr :
    start.sess = false ∧ (armed 64).sess = true ∧ { armed 64 with ready := false }.ready = false ∧
    { armed 64 with fvalid := false }.fvalid = false := by decide

theorem witness_SBoxIsTheAffineInverse : gfMul 0x53 0xCA = 1 ∧ (0x53 : Byte) ≠ 0 := by decide

theorem witness_RowsRotateAndColumnsMix :
    ∃ (r c : Nat), r < 4 ∧ c < 4 ∧ r = 3 ∧ c = 3 := ⟨3, 3, by decide⟩

theorem witness_KeyExpansionFollowsItsRecurrence :
    (∀ i ∈ [4, 43], 4 ≤ i ∧ i < 44) ∧
    ([0x01, 0x02, 0x04, 0x08, 0x10, 0x20, 0x40, 0x80, 0x1B, 0x36] : List Byte)[8]? = some 0x1B ∧
    ([0x01, 0x02, 0x04, 0x08, 0x10, 0x20, 0x40, 0x80, 0x1B, 0x36] : List Byte)[8 + 1]? = some 0x36 := by
  decide

theorem witness_CipherIsItsTenRounds : ∀ k ∈ [0, 15], k < 16 := by decide

theorem witness_KsblkMakesOneKeystreamBlock : start.sess = false ∧ kz.sess = true := by decide

theorem witness_TransformXorsTheKeystream :
    (List.replicate 255 (0x41 : Byte))[254]? = some 0x41 := by decide

theorem witness_CryptTransformsThePayloadInPlace :
    start.sess = false ∧ { kz with plen := 255 }.sess = true ∧
    (255 : Byte).toNat ≤ { kz with plen := 255 }.params.pbufSize ∧ 254 < (255 : Byte).toNat ∧
    (0xFF < pbufBase ∧ pbufBase + (255 : Byte).toNat ≤ 0x1FF) := by decide

theorem witness_CryptTwiceRestoresTheBuffers : { kz with plen := 255 }.sess = true := by decide

theorem witness_SubkeysAreDoublings : ∀ k ∈ [0, 14], k < 15 := by decide

theorem witness_CmacChainsTheMessageBlocks :
    (List.replicate 16 (0x41 : Byte)).length = 16 ∧
    (([] : List Byte).length < 16 ∧ (([] : List Byte) = [] → ([] : List Block) = [])) ∧
    ((List.replicate 15 (0x41 : Byte)).length < 16 ∧
      (List.replicate 15 (0x41 : Byte) = [] → [Block.zero] = [])) := by decide

theorem witness_MicgenComputesTheCode :
    start.sess = false ∧ { kz with mlen := 64 }.sess = true ∧ (64 : Byte).toNat ≤ 64 := by decide

theorem witness_BuildMakesTheFrame :
    { kz with plen := 51 }.sess = true ∧ (51 : Byte).toNat ≤ 51 ∧ 50 < (51 : Byte).toNat ∧
    (fbufBase + (13 + (51 : Byte).toNat) ≤ 0x240 ∧ 0x1FF < fbufBase) := by decide

theorem witness_BuildRejectsAnOversizePayload :
    { kz with plen := 52 }.sess = true ∧ 52 ≤ (52 : Byte).toNat ∧ (51 : Byte).toNat ≤ 51 := by decide

theorem witness_MicgenAfterBuildReproducesTheCode :
    { kz with plen := 51 }.sess = true ∧ { kz with plen := 51 }.plen.toNat ≤ 51 := by decide

theorem witness_SetdrSelectsAProfile :
    start.params.drTable[(2 : Byte).toNat]? = some ⟨"DR_C", ⟨0xC4, 0x72, 0x0C⟩⟩ ∧
    start.params.nDr ≤ (3 : Byte).toNat := by decide

theorem witness_SetchFixesAChannel :
    start.sess = false ∧ kz.sess = true ∧
    ∃ plan, kz.params.chTable[kz.region.toNat]? = some plan ∧
      plan.channels[(2 : Byte).toNat]? = some ⟨0xD9, 0x20, 0x24⟩ := by
  exact ⟨rfl, rfl, _, rfl, rfl⟩

theorem witness_RinitAndSendStartTheSequencer :
    (armed 13).ready = true ∧ (armed 13).sess = true ∧ (armed 13).fvalid = true := by decide

theorem witness_VersionCheckAndResetPulse :
    (∃ s : State, s.engineNext ∧ s.agenda = [] ∧ s.seq = .iVer ∧ s.busAnswers = [] ) ∧
    (∃ s : State, s.engineNext ∧ s.seq = .iVer ∧ s.busAnswers.head? = some s.params.versionExpected) ∧
    (∃ s : State, s.engineNext ∧ s.seq = .iVer ∧ s.busAnswers.head? = some (s.params.versionExpected + 1)) ∧
    (∃ s : State, s.engineNext ∧ s.agenda = [.engine, .hostRead 0x0003] ∧ s.seq = .iRstA) ∧
    (∃ s : State, s.engineNext ∧ s.seq = .iRstB) :=
  ⟨⟨{ start with seq := .iVer }, .inl rfl, rfl, rfl, rfl⟩,
   ⟨{ start with seq := .iVer, busAnswers := [0x12] }, .inl rfl, rfl, rfl⟩,
   ⟨{ start with seq := .iVer, busAnswers := [0x13] }, .inl rfl, rfl, rfl⟩,
   ⟨{ start with seq := .iRstA, agenda := [.engine, .hostRead 0x0003] }, .inr rfl, rfl, rfl⟩,
   ⟨{ start with seq := .iRstB }, .inl rfl, rfl⟩⟩

theorem witness_BaselineStep :
    ∃ s : State, s.engineNext ∧ s.seq = .iBase ∧ s.params.baseline[(1 : Byte).toNat]? = some ⟨0x0C, 0xA1⟩ ∧
      s.params.baseline.length ≤ (2 : Byte).toNat :=
  ⟨{ start with seq := .iBase, agenda := [.engine, .tick] }, .inr rfl, rfl, rfl, by decide⟩

theorem witness_ModeCommandingSteps :
    ∀ p ∈ [Phase.sStdby, .sTxgo, .sSleep], (sending p).engineNext ∧ (sending p).seq = p := by decide

theorem witness_ChannelStep :
    (sending .sChsel).engineNext ∧ (sending .sChsel).seq = .sChsel ∧
    { sending .sChsel with chmode := true }.chmode = true ∧ (sending .sChsel).chmode = false ∧
    (sending .sChsel).region.toNat < (sending .sChsel).params.nRegion ∧
    { sending .sChsel with drawAnswers := [2] }.drawAnswers = 2 :: [] ∧
    2 < (sending .sChsel).params.nCh (sending .sChsel).region.toNat := by decide

theorem witness_ConfigurationTakesSevenSteps :
    (sending .sProg).engineNext ∧ (sending .sProg).agenda = [] ∧ (sending .sProg).seq = .sProg ∧ (sending .sProg).fidx = 0 ∧
    { sending .sProg with fidx := 5 }.fidx ≠ 6 ∧ { sending .sProg with fidx := 6 }.fidx = 6 := by decide

theorem witness_FifoLoadSendsTheFrameInOrder :
    (sending .sFifo).engineNext ∧ (sending .sFifo).agenda = [] ∧ (sending .sFifo).seq = .sFifo ∧ (sending .sFifo).flen.toNat ≤ 64 ∧
    (sending .sFifo).fidx = 0 ∧
    { sending .sFifo with fidx := 63 }.fidx.toNat < (sending .sFifo).flen.toNat ∧
    (sending .sFifo).flen.toNat ≤ { sending .sFifo with fidx := 64 }.fidx.toNat := by decide

theorem witness_PollStep :
    (∃ s : State, s.engineNext ∧ s.seq = .sPoll ∧ s.txDoneAnswers = []) ∧
    (∃ s : State, s.engineNext ∧ s.seq = .sPoll ∧ s.txDoneAnswers.head? = some true) ∧
    (∃ s : State, s.engineNext ∧ s.seq = .sPoll ∧ s.txDoneAnswers.head? = some false ∧
      s.tmo.toNat ≤ s.elapsed.toNat) ∧
    (∃ s : State, s.engineNext ∧ s.agenda = [.engine, .tick] ∧ s.seq = .sPoll ∧
      s.txDoneAnswers.head? = some false ∧ s.elapsed.toNat < s.tmo.toNat) :=
  ⟨⟨sending .sPoll, .inl rfl, rfl, rfl⟩,
   ⟨{ sending .sPoll with txDoneAnswers := [true] }, .inl rfl, rfl, rfl⟩,
   ⟨{ sending .sPoll with txDoneAnswers := [false], tmo := 3, elapsed := 3 }, .inl rfl, rfl, rfl, by decide⟩,
   ⟨{ sending .sPoll with agenda := [.engine, .tick], txDoneAnswers := [false], tmo := 3, elapsed := 2 },
     .inr rfl, rfl, rfl, rfl, by decide⟩⟩

theorem witness_TickCountsOnlyWhilePolling :
    { sending .sPoll with agenda := [.tick] }.agenda = .tick :: [] ∧ (sending .sPoll).seq = .sPoll ∧
    (sending .sFifo).seq ≠ .sPoll := by decide

theorem witness_RinitRunsToReady :
    ∃ s : State, s.agenda = [] ∧ s.busAnswer = s.params.versionExpected ∧
      s.params.baseline.length ≤ 255 :=
  ⟨{ start with busAnswers := [0x12] }, rfl, rfl, by decide⟩

theorem witness_SendEmitsItsWholeTrace :
    (∃ s : State, s.agenda = [] ∧ s.ready = true ∧ s.sess = true ∧ s.fvalid = true ∧ s.flen.toNat ≤ 64 ∧
      s.txDoneAnswers = List.replicate 0 false ++ true :: [] ∧ s.chmode = true) ∧
    (∃ s : State, s.agenda = [] ∧ s.ready = true ∧ s.sess = true ∧ s.fvalid = true ∧ s.flen.toNat ≤ 64 ∧
      s.txDoneAnswers = List.replicate 2 false ++ true :: [] ∧ 0 < s.tmo.toNat ∧ s.chmode = false ∧
      s.region.toNat < s.params.nRegion ∧ s.drawAnswers = 2 :: [] ∧ 2 < s.params.nCh s.region.toNat) :=
  ⟨⟨{ armed 64 with chmode := true, txDoneAnswers := [true] }, rfl, rfl, rfl, rfl, by decide, rfl, rfl⟩,
   ⟨{ armed 64 with tmo := 1, txDoneAnswers := [false, false, true], drawAnswers := [2] },
     rfl, rfl, rfl, rfl, by decide, rfl, by decide, rfl, by decide, rfl, by decide⟩⟩

theorem witness_UnansweredPollEndsInSendTimeout :
    (∃ s : State, s.seq = .sPoll ∧ s.elapsed.toNat + 3 = s.tmo.toNat ∧
      s.agenda = (List.replicate 3 [Turn.engine, Turn.tick]).flatten ++ [.engine, .engine] ∧
      s.txDoneAnswers = List.replicate 4 false ++ []) ∧
    (∃ s : State, s.seq = .sPoll ∧ s.elapsed.toNat + 0 = s.tmo.toNat ∧
      s.agenda = [.engine, .engine] ∧ s.txDoneAnswers = [false]) :=
  ⟨⟨{ sending .sPoll with
      tmo := 3, agenda := [.engine, .tick, .engine, .tick, .engine, .tick, .engine, .engine]
      txDoneAnswers := [false, false, false, false] }, rfl, rfl, rfl, rfl⟩,
   ⟨{ sending .sPoll with agenda := [.engine, .engine], txDoneAnswers := [false] }, rfl, rfl, rfl, rfl⟩⟩

/-- A state in the middle of a SEND meets the invariant. -/
theorem witness_sound (p : Phase) (h : p.ofSend = true) : (sending p).Inv where
  busy_iff := by cases p <;> first | exact absurd h (by decide) | decide
  mode_eq := rfl
  region_known := fun _ => rfl
  frame_fits := show (64 : Byte).toNat ≤ 64 by decide
  frame_whole := fun _ => show 13 ≤ (64 : Byte).toNat by decide
  send_ready := fun _ => rfl
  prog_index := fun _ => show (0 : Byte).toNat ≤ 6 by decide
  fifo_index := fun _ => show (0 : Byte).toNat ≤ (64 : Byte).toNat by decide
  poll_running := fun _ => rfl
  err_known := show (0 : Byte).toNat ≤ 7 by decide
  mem_wf := .nil
  mem_mapped := nofun

theorem witness_EveryStepKeepsSoundness :
    (sending .sStdby).Inv ∧ ∃ t, step (sending .sStdby) = .next t := ⟨witness_sound _ rfl, _, rfl⟩

theorem witness_SoundStatesNeverFault : (sending .sChsel).Inv := witness_sound _ rfl

theorem witness_ModeMovesAroundItsCycle :
    ∀ p ∈ [Phase.sStdby, .sTxgo, .sSleep, .sFifo], (sending p).Inv ∧
      (sending p).agenda.head? ≠ some .resetPin ∧ ∃ t, step (sending p) = .next t := by
  intro p hp
  fin_cases hp <;> exact ⟨witness_sound _ rfl, by decide, _, rfl⟩

theorem witness_SessionsAreImmutable :
    (kz.agenda.head? ≠ some .resetPin ∧ kz.sess = true ∧ ∃ t, step kz = .next t) ∧
    (∃ s t : State, s.agenda.head? ≠ some .resetPin ∧ step s = .next t ∧ s.sess = false ∧
      t.sess = true) :=
  ⟨⟨by decide, rfl, _, rfl⟩,
   ⟨{ start with agenda := [.hostWrite 0x0000 0x01] }, _, by decide, rfl, rfl, rfl⟩⟩

theorem witness_CommandsNeverWriteOperands :
    (∃ t i, exec i kz = .next t) ∧ ∃ t, engineTurn (sending .sStdby) = .next t :=
  ⟨⟨_, .nop, rfl⟩, _, rfl⟩

theorem witness_HostReadsChangeNothing (a : BitVec 16) :
    ∃ s : State, s.agenda = .hostRead a :: [] ∧ s.busy = true :=
  ⟨{ sending .sPoll with agenda := [.hostRead a] }, rfl, rfl⟩

theorem witness_HostReadsChangeNothing_boundaries :
    (∀ a ∈ [(0x0020 : BitVec 16), 0x003F], 0x20 ≤ a.toNat ∧ a.toNat < 0x40) ∧
    (∀ a ∈ [(0x0040 : BitVec 16), 0x004F], 0x40 ≤ a.toNat ∧ a.toNat < 0x50) ∧
    (∀ a ∈ [(0x0050 : BitVec 16), 0x0053], 0x50 ≤ a.toNat ∧ a.toNat < 0x54) ∧
    (∀ a ∈ [(0x0100 : BitVec 16), 0x01FE],
      0x100 ≤ a.toNat ∧ a.toNat ≤ 0x1FE ∧ a.toNat < 0x100 + start.params.pbufSize) ∧
    (∀ a ∈ [(0x0110 : BitVec 16), 0x01FE],
      0x100 + { tp with pbufSize := 16 }.pbufSize ≤ a.toNat ∧ a.toNat ≤ 0x1FE) ∧
    (∀ a ∈ [(0x0200 : BitVec 16), 0x023F], 0x200 ≤ a.toNat ∧ a.toNat ≤ 0x23F) ∧
    (∀ a ∈ [(0x001B : BitVec 16), 0x001F, 0x0054, 0x00FF, 0x01FF, 0x0240, 0xFFFF],
      a.toNat = 0x1B ∨ a.toNat = 0x1F ∨ (0x54 ≤ a.toNat ∧ a.toNat ≤ 0xFF) ∨
      a.toNat = 0x1FF ∨ 0x240 ≤ a.toNat) := by simp [start, tp, State.resetWith]

theorem witness_KeysNeverReadBack :
    ∀ a ∈ [(0x0020 : BitVec 16), 0x003F], 0x20 ≤ a.toNat ∧ a.toNat < 0x40 := by simp

/-- A host write at any address, twelve operand addresses among them, with the engine idle. -/
theorem witness_HostWritesReachTheOperands (a : BitVec 16) (v : Byte) :
    ∃ s : State, s.agenda = .hostWrite a v :: [] ∧ s.busy = false ∧ s.sess = false :=
  ⟨{ start with agenda := [.hostWrite a v] }, rfl, rfl, rfl⟩

theorem witness_HostWritesReachTheOperands_boundaries :
    (0x0010 : BitVec 16).toNat = 0x10 + 0 ∧ (0x0013 : BitVec 16).toNat = 0x10 + 3 ∧
    (0x0020 : BitVec 16).toNat = 0x20 + 0 ∧ (0x002F : BitVec 16).toNat = 0x20 + 15 ∧
    (0x0030 : BitVec 16).toNat = 0x30 + 0 ∧ (0x003F : BitVec 16).toNat = 0x30 + 15 := by decide

theorem witness_HostWritesReachTheBuffers (a : BitVec 16) (v : Byte) :
    ∃ s : State, s.agenda = .hostWrite a v :: [] ∧ s.busy = false ∧ s.fvalid = true :=
  ⟨{ armed 64 with agenda := [.hostWrite a v] }, rfl, rfl, rfl⟩

theorem witness_HostWritesReachTheBuffers_boundaries :
    (∀ a ∈ [(0x0100 : BitVec 16), 0x01FE],
      0x100 ≤ a.toNat ∧ a.toNat ≤ 0x1FE ∧ a.toNat < 0x100 + start.params.pbufSize) ∧
    (∀ a ∈ [(0x0200 : BitVec 16), 0x023F], 0x200 ≤ a.toNat ∧ a.toNat ≤ 0x23F) := by
  simp [start, tp, State.resetWith]

theorem witness_OtherHostWritesAreIgnored (a : BitVec 16) (v : Byte) :
    ∃ s : State, s.agenda = .hostWrite a v :: [] ∧ s.busy = false ∧ s.sess = true :=
  ⟨{ kz with agenda := [.hostWrite a v] }, rfl, rfl, rfl⟩

theorem witness_OtherHostWritesAreIgnored_boundaries :
    (∀ a ∈ [(0x0001 : BitVec 16), 0x0003], 1 ≤ a.toNat ∧ a.toNat ≤ 3) ∧
    (∀ a ∈ [(0x0014 : BitVec 16), 0x001F], 0x14 ≤ a.toNat ∧ a.toNat ≤ 0x1F) ∧
    (∀ a ∈ [(0x0040 : BitVec 16), 0x00FF], 0x40 ≤ a.toNat ∧ a.toNat ≤ 0xFF) ∧
    (∀ a ∈ [(0x0110 : BitVec 16), 0x01FF],
      0x100 + { tp with pbufSize := 16 }.pbufSize ≤ a.toNat ∧ a.toNat ≤ 0x1FF) ∧
    (0x01FF : BitVec 16).toNat = 0x1FF ∧ (∀ a ∈ [(0x0240 : BitVec 16), 0xFFFF], 0x240 ≤ a.toNat) ∧
    (∀ a ∈ [(0x000F : BitVec 16), 0x003F], 0x0F ≤ a.toNat ∧ a.toNat ≤ 0x3F) := by simp

theorem witness_UnspecifiedCasesAreRefused :
    (∃ s : State, s.agenda = .hostWrite 0x0005 0x01 :: [] ∧ s.busy = true) ∧
    (∃ s : State, s.sess = true ∧ s.params.nCh s.region.toNat ≤ s.chsel.toNat) ∧
    (∃ s : State, s.sess = true ∧ 64 < s.mlen.toNat) :=
  ⟨⟨{ sending .sPoll with agenda := [.hostWrite 0x0005 0x01] }, rfl, rfl⟩,
   ⟨{ kz with chsel := 3 }, rfl, by decide⟩, ⟨{ kz with mlen := 65 }, rfl, by decide⟩⟩

theorem witness_CredentialLoadsTakeEffect : start.busy = false ∧ start.sess = false := by decide

theorem witness_PayloadLoadTakesEffect :
    start.busy = false ∧ (List.replicate 255 (0x41 : Byte)).length ≤ 255 ∧
    (List.replicate 255 (0x41 : Byte)).length ≤ start.params.pbufSize ∧ ([] : List Byte).length ≤ 255 :=
  ⟨rfl, List.length_replicate.le, List.length_replicate.le, Nat.zero_le _⟩

theorem witness_ResetPinAbandonsTheCommand :
    ∃ s : State, s.agenda = .resetPin :: [] ∧ s.busy = true ∧ s.seq = .sPoll :=
  ⟨{ sending .sPoll with agenda := [.resetPin] }, rfl, rfl, rfl⟩

end Sys2Proof.Tests
end

/-! PROOF. The invariant of Safety.lean: it holds after reset and every agent's turn keeps it. Its
conjuncts fall into those that speak of data alone and those that a phase of the sequencer enters; the
first are kept by every operation, the second are settled phase by phase. -/

namespace Sys2Proof.Machine

/-! ### The two halves of the invariant -/

/-- The conjuncts of `State.Inv` that hold whatever the phase is. -/
structure State.DataSound (s : State) : Prop where
  region_known : s.sess = true → s.regionKnown = true
  frame_fits : s.flen.toNat ≤ Config.fifoCap
  frame_whole : s.fvalid = true → 13 ≤ s.flen.toNat
  err_known : s.err.toNat ≤ 7
  mem_wf : s.mem.wf
  mem_mapped : s.mem.mapped s.params

/-- The invariant's conjuncts that no phase enters. -/
theorem State.Inv.dataSound {s : State} (h : s.Inv) : s.DataSound :=
  ⟨h.region_known, h.frame_fits, h.frame_whole, h.err_known, h.mem_wf, h.mem_mapped⟩

/-- BUSY and SEQ agree while a command runs. -/
theorem running_iff {s : State} (hb : s.busy = true) (hq : s.seq ≠ .idle) :
    s.busy = false ↔ s.seq = .idle := iff_of_false (by simp [hb]) hq

/-- Outside SEND the phase asks only that BUSY agrees with SEQ and that MODE is Sleep. -/
theorem State.DataSound.inv_of_not_send {s : State} (d : s.DataSound) (hp : s.seq.ofSend = false)
    (hb : s.busy = false ↔ s.seq = .idle) (hm : s.mode = .sleep) : s.Inv where
  busy_iff := hb
  mode_eq := by
    cases hq : s.seq <;> simp_all [Phase.ofSend, Phase.commandedMode]
  region_known := d.region_known
  frame_fits := d.frame_fits
  frame_whole := d.frame_whole
  send_ready hs := by simp [hp] at hs
  prog_index hs := by simp [hs, Phase.ofSend] at hp
  fifo_index hs := by simp [hs, Phase.ofSend] at hp
  poll_running hs := by simp [hs, Phase.ofSend] at hp
  err_known := d.err_known
  mem_wf := d.mem_wf
  mem_mapped := d.mem_mapped

/-- In SEND the phase asks for the preconditions, and in three phases for a bound of its own. -/
theorem State.DataSound.inv_of_send {s : State} (d : s.DataSound) (hp : s.seq.ofSend = true)
    (hb : s.busy = true) (hm : s.mode = s.seq.commandedMode) (hr : s.sendReady = true)
    (prog_index : s.seq = .sProg → s.fidx.toNat ≤ 6 := by nofun)
    (fifo_index : s.seq = .sFifo → s.fidx.toNat ≤ s.flen.toNat := by nofun)
    (poll_running : s.seq = .sPoll → s.timedout = false := by nofun) : s.Inv where
  busy_iff := running_iff hb fun hq => by simp [hq, Phase.ofSend] at hp
  mode_eq := hm
  region_known := d.region_known
  frame_fits := d.frame_fits
  frame_whole := d.frame_whole
  send_ready _ := hr
  prog_index := prog_index
  fifo_index := fifo_index
  poll_running := poll_running
  err_known := d.err_known
  mem_wf := d.mem_wf
  mem_mapped := d.mem_mapped

/-- With BUSY = 0 a sound state is in IDLE with MODE Sleep (10_state.md R44, 44_radio.md R224). -/
theorem State.Inv.idle {s : State} (h : s.Inv) (hb : s.busy = false) :
    s.seq = .idle ∧ s.mode = .sleep := by
  have hq := h.busy_iff.1 hb
  exact ⟨hq, by rw [h.mode_eq, hq]; rfl⟩

/-- Any other phase than IDLE has BUSY = 1. -/
theorem State.Inv.busy {s : State} (h : s.Inv) (hq : s.seq ≠ .idle) : s.busy = true := by
  simpa using mt h.busy_iff.1 hq

/-! ### Updates that keep the data sound -/

theorem State.DataSound.endWith {s : State} (d : s.DataSound) {c : Byte} (hc : c.toNat ≤ 7) :
    (s.endWith c).DataSound := { d with err_known := hc }

/-- Memory may change as long as it stays canonical and inside the buffers. -/
theorem State.DataSound.setMem {s : State} (d : s.DataSound) {m : Memory} (hw : m.wf)
    (hm : m.mapped s.params) : (s.setMem m).DataSound := { d with mem_wf := hw, mem_mapped := hm }

@[simp] theorem State.store_params (s : State) (loc : HostLoc) (v : Byte) :
    (s.store loc v).params = s.params := (congrArg State.params (s.store_keeps loc v) :)

@[simp] theorem State.store_sess (s : State) (loc : HostLoc) (v : Byte) :
    (s.store loc v).sess = s.sess := (congrArg State.sess (s.store_keeps loc v) :)

@[simp] theorem State.store_flen (s : State) (loc : HostLoc) (v : Byte) :
    (s.store loc v).flen = s.flen := (congrArg State.flen (s.store_keeps loc v) :)

@[simp] theorem State.store_err (s : State) (loc : HostLoc) (v : Byte) :
    (s.store loc v).err = s.err := (congrArg State.err (s.store_keeps loc v) :)

@[simp] theorem State.store_busy (s : State) (loc : HostLoc) (v : Byte) :
    (s.store loc v).busy = s.busy := (congrArg State.busy (s.store_keeps loc v) :)

@[simp] theorem State.store_seq (s : State) (loc : HostLoc) (v : Byte) :
    (s.store loc v).seq = s.seq := (congrArg State.seq (s.store_keeps loc v) :)

@[simp] theorem State.store_mode (s : State) (loc : HostLoc) (v : Byte) :
    (s.store loc v).mode = s.mode := (congrArg State.mode (s.store_keeps loc v) :)

/-- A host write to a register or a buffer keeps the data sound: REGION only changes without a
session, FVALID is only ever cleared, and a buffer location lies inside the buffers. -/
theorem State.DataSound.store {s : State} (d : s.DataSound) (a : BitVec 16) (v : Byte) :
    (s.store (locate a) v).DataSound where
  region_known hs := by
    rw [State.store_sess] at hs
    obtain ⟨-, -, -, hr⟩ := s.store_credentials (locate a) v hs
    simpa [State.regionKnown, hr] using d.region_known hs
  frame_fits := by simpa using d.frame_fits
  frame_whole hf := by simpa using d.frame_whole (s.store_fvalid _ v hf)
  err_known := by simpa using d.err_known
  mem_wf := by
    rcases s.store_mem (locate a) v with ⟨k, -, -, hm⟩ | ⟨k, -, hm⟩ | hm <;> rw [hm]
    · exact Memory.write_wf _ _ _ d.mem_wf
    · exact Memory.write_wf _ _ _ d.mem_wf
    · exact d.mem_wf
  mem_mapped := by
    rw [State.store_params]
    rcases s.store_mem (locate a) v with ⟨k, -, hk, hm⟩ | ⟨k, hl, hm⟩ | hm <;> rw [hm]
    · exact Memory.write_mapped _ _ _ _ d.mem_mapped (inBuffers_pbuf _ k hk)
    · exact Memory.write_mapped _ _ _ _ d.mem_mapped (inBuffers_fbuf _ k (locate_fbuf hl).1)
    · exact d.mem_mapped

/-! ### The commands at issue -/

/-- CRYPT's bytes stay inside PBUF. -/
theorem State.DataSound.writePbuf {s : State} (d : s.DataSound) (bytes : List Byte) :
    (s.writePbuf bytes).DataSound :=
  d.setMem (Memory.writeBytes_wf _ _ _ d.mem_wf) (s.writePbuf_mapped bytes d.mem_mapped)

/-- The bytes of a sequence that FBUF has room for stay inside FBUF. -/
theorem State.DataSound.writeFbuf {s : State} (d : s.DataSound) {bytes : List Byte}
    (hl : bytes.length ≤ Config.fifoCap) : (s.writeFbuf bytes).DataSound :=
  d.setMem (Memory.writeBytes_wf _ _ _ d.mem_wf)
    (Memory.writeBytes_mapped _ _ _ _ d.mem_mapped fun k hk => inBuffers_fbuf _ k (hk.trans_le hl))

/-- A frame that fits has its length in FLEN without wrapping (43_frame.md R208). -/
theorem State.flen_of_frameLength {s : State} (h : s.frameLength ≤ Config.fifoCap) :
    (BitVec.ofNat 8 s.frameLength).toNat = s.frameLength :=
  (BitVec.toNat_ofNat _ _).trans (Nat.mod_eq_of_lt (h.trans_lt (by decide)))

/-- BUILD leaves FLEN 0 and no valid frame, or a whole frame that fits (43_frame.md R202, R204). -/
theorem execBuild_dataSound {s t : State} (d : s.DataSound) (h : execBuild s = .next t) :
    t.DataSound := by
  rcases execBuild_cases h with ⟨-, rfl⟩ | ⟨-, -, rfl⟩ | ⟨-, hl, rfl⟩
  · exact d.endWith (by decide)
  · exact { d with
      frame_fits := Nat.zero_le _
      frame_whole := nofun
      err_known := show (4 : Byte).toNat ≤ 7 by decide }
  · have hn := State.flen_of_frameLength hl
    have hlen : s.frameLength = 13 + s.plen.toNat := by
      unfold State.frameLength Config.hdrLen Config.micLen
      omega
    have hw := d.writeFbuf (bytes := frame s.params s.appskey s.nwkskey s.devaddr s.port s.fcnt
      s.payload) (by simpa [hlen] using hl)
    exact { hw with
      frame_fits := hn.trans_le hl
      frame_whole := fun _ => (hlen ▸ Nat.le_add_right 13 _ : 13 ≤ s.frameLength).trans_eq hn.symm
      err_known := Nat.zero_le _ }

/-- Every command keeps the data sound at its issue. -/
theorem exec_dataSound {s t : State} (d : s.DataSound) {i : Instr} (h : exec i s = .next t) :
    t.DataSound := by
  cases i with
  | nop => cases h; exact d.endWith (by decide)
  | ldsess =>
    rcases execLdsess_cases h with ⟨-, rfl⟩ | ⟨-, hk, rfl⟩ | ⟨-, -, rfl⟩
    · exact d.endWith (by decide)
    · exact { d with region_known := fun _ => hk, err_known := Nat.zero_le _ }
    · exact d.endWith (by decide)
  | ksblk =>
    rcases execKsblk_cases h with ⟨-, rfl⟩ | ⟨-, rfl⟩
    · exact d.endWith (by decide)
    · exact { d with err_known := Nat.zero_le _ }
  | crypt =>
    rcases execCrypt_cases h with ⟨-, rfl⟩ | ⟨-, rfl⟩
    · exact d.endWith (by decide)
    · exact (d.writePbuf _).endWith (by decide)
  | micgen =>
    rcases execMicgen_cases h with ⟨-, rfl⟩ | ⟨-, -, rfl⟩
    · exact d.endWith (by decide)
    · exact { d with err_known := Nat.zero_le _ }
  | build => exact execBuild_dataSound d h
  | rinit => cases h; exact { d with }
  | setdr =>
    rcases execSetdr_cases h with ⟨_, -, rfl⟩ | ⟨-, rfl⟩
    · exact { d with err_known := Nat.zero_le _ }
    · exact d.endWith (by decide)
  | setch =>
    rcases execSetch_cases h with ⟨-, rfl⟩ | ⟨-, _, -, rfl⟩
    · exact d.endWith (by decide)
    · exact { d with err_known := Nat.zero_le _ }
  | send =>
    rcases execSend_cases h with ⟨-, rfl⟩ | ⟨-, rfl⟩
    · exact { d with }
    · exact d.endWith (by decide)

/-- At its issue a command leaves the sequencer alone, or it is RINIT or a SEND whose preconditions
hold and starts it (44_radio.md R230, R242). -/
theorem exec_sequencer {i : Instr} {s t : State} (h : exec i s = .next t) :
    (t.busy = s.busy ∧ t.seq = s.seq ∧ t.mode = s.mode) ∨
    t = { s with busy := true, seq := .iVer } ∨
    (s.sendReady = true ∧ t = { s with busy := true, seq := .sStdby }) := by
  cases i with
  | nop => cases h; exact .inl ⟨rfl, rfl, rfl⟩
  | ldsess =>
    rcases execLdsess_cases h with ⟨-, rfl⟩ | ⟨-, -, rfl⟩ | ⟨-, -, rfl⟩ <;> exact .inl ⟨rfl, rfl, rfl⟩
  | ksblk => rcases execKsblk_cases h with ⟨-, rfl⟩ | ⟨-, rfl⟩ <;> exact .inl ⟨rfl, rfl, rfl⟩
  | crypt => rcases execCrypt_cases h with ⟨-, rfl⟩ | ⟨-, rfl⟩ <;> exact .inl ⟨rfl, rfl, rfl⟩
  | micgen => rcases execMicgen_cases h with ⟨-, rfl⟩ | ⟨-, -, rfl⟩ <;> exact .inl ⟨rfl, rfl, rfl⟩
  | build =>
    rcases execBuild_cases h with ⟨-, rfl⟩ | ⟨-, -, rfl⟩ | ⟨-, -, rfl⟩ <;> exact .inl ⟨rfl, rfl, rfl⟩
  | rinit => cases h; exact .inr (.inl rfl)
  | setdr => rcases execSetdr_cases h with ⟨_, -, rfl⟩ | ⟨-, rfl⟩ <;> exact .inl ⟨rfl, rfl, rfl⟩
  | setch => rcases execSetch_cases h with ⟨-, rfl⟩ | ⟨-, _, -, rfl⟩ <;> exact .inl ⟨rfl, rfl, rfl⟩
  | send =>
    rcases execSend_cases h with ⟨hr, rfl⟩ | ⟨-, rfl⟩
    · exact .inr (.inr ⟨hr, rfl⟩)
    · exact .inl ⟨rfl, rfl, rfl⟩

/-- A command issued while BUSY = 0 keeps the invariant. -/
theorem exec_inv {s t : State} (h : s.Inv) (hb : s.busy = false) {i : Instr}
    (hx : exec i s = .next t) : t.Inv := by
  have d := exec_dataSound h.dataSound hx
  obtain ⟨hq, hm⟩ := h.idle hb
  rcases exec_sequencer hx with ⟨hb', hq', hm'⟩ | rfl | ⟨hr, rfl⟩
  · exact d.inv_of_not_send (by rw [hq', hq]; rfl) (by simp [hb', hb, hq', hq]) (hm'.trans hm)
  · exact d.inv_of_not_send rfl (by simp) hm
  · exact d.inv_of_send rfl rfl hm hr

/-- A host write keeps the invariant. -/
theorem hostWrite_inv {s t : State} (h : s.Inv) {a : BitVec 16} {v : Byte}
    (hw : hostWrite a v s = .next t) : t.Inv := by
  obtain ⟨hb, ⟨-, hi⟩ | ⟨-, rfl⟩⟩ := hostWrite_cases hw
  · rcases issueCommand_cases hi with ⟨i, -, hx⟩ | ⟨e, -, rfl⟩
    · exact exec_inv h hb hx
    · exact { h with err_known := show (6 : Byte).toNat ≤ 7 by decide }
  · obtain ⟨hq, hm⟩ := h.idle hb
    exact (h.dataSound.store a v).inv_of_not_send (by simp [hq, Phase.ofSend]) (by simp [hb, hq])
      (by simp [hm])

/-! ### The engine's micro-steps -/

/-- RINIT goes on to the reset pulse, or ends with ERR 1. -/
theorem microVersion_inv {s : State} (h : s.Inv) (hq : s.seq = .iVer) :
    (microVersion s).Inv := by
  have hb := h.busy (by simp [hq])
  have hm : s.mode = .sleep := h.mode_eq.trans (by rw [hq]; rfl)
  unfold microVersion
  split_ifs
  · exact State.DataSound.inv_of_not_send { h.dataSound with } rfl (running_iff hb nofun) hm
  · exact State.DataSound.inv_of_not_send
      { h.dataSound with err_known := show (1 : Byte).toNat ≤ 7 by decide }
      rfl (iff_of_true rfl rfl) hm

theorem microResetAssert_inv {s : State} (h : s.Inv) (hq : s.seq = .iRstA) :
    (microResetAssert s).Inv :=
  State.DataSound.inv_of_not_send { h.dataSound with } rfl
    (running_iff (h.busy (by simp [hq])) nofun) (h.mode_eq.trans (by rw [hq]; rfl))

theorem microResetRelease_inv {s : State} (h : s.Inv) (hq : s.seq = .iRstB) :
    (microResetRelease s).Inv :=
  State.DataSound.inv_of_not_send { h.dataSound with } rfl
    (running_iff (h.busy (by simp [hq])) nofun) (h.mode_eq.trans (by rw [hq]; rfl))

/-- RINIT stays in its table, or ends with ERR 0. -/
theorem microBaseline_inv {s : State} (h : s.Inv) (hq : s.seq = .iBase) :
    (microBaseline s).Inv := by
  unfold microBaseline
  split
  · exact { h with
      prog_index := fun hp => absurd (hq.symm.trans hp) nofun
      fifo_index := fun hp => absurd (hq.symm.trans hp) nofun }
  · exact State.DataSound.inv_of_not_send
      { h.dataSound with err_known := Nat.zero_le _ } rfl (iff_of_true rfl rfl) rfl

theorem microStandby_inv {s : State} (h : s.Inv) (hq : s.seq = .sStdby) :
    (microStandby s).Inv :=
  State.DataSound.inv_of_send { h.dataSound with } rfl (h.busy (by simp [hq])) rfl
    (h.send_ready (by rw [hq]; rfl))

/-- The channel step enters the configuration table at row 0. -/
theorem microChannel_inv {s t : State} (h : s.Inv) (hq : s.seq = .sChsel)
    (hx : microChannel s = .next t) : t.Inv := by
  have hb := h.busy (by simp [hq])
  have hm : s.mode = .standby := h.mode_eq.trans (by rw [hq]; rfl)
  have hr := h.send_ready (by rw [hq]; rfl)
  rcases microChannel_cases hx with ⟨-, rfl⟩ | ⟨-, -, c, -, rfl⟩
  · exact State.DataSound.inv_of_send { h.dataSound with } rfl hb hm hr fun _ => Nat.zero_le _
  · exact State.DataSound.inv_of_send { h.dataSound with } rfl hb hm hr fun _ => Nat.zero_le _

/-- FIDX counts up without wrapping while it stays below a bound that fits a byte. -/
theorem fidx_succ_le {i : Byte} {n : Nat} (hi : i.toNat < n) (hn : n < 256) :
    (i + 1).toNat ≤ n := by
  rw [BitVec.toNat_add_of_lt (by simp; omega)]
  simpa using hi

/-- A configuration write below row 6 stays in the table; after row 6 the frame is loaded from its
first byte. -/
theorem microConfigure_inv {s t : State} (h : s.Inv) (hq : s.seq = .sProg)
    (hx : microConfigure s = .next t) : t.Inv := by
  have hm : s.mode = .standby := h.mode_eq.trans (by rw [hq]; rfl)
  have hr := h.send_ready (by rw [hq]; rfl)
  obtain ⟨w, -, ⟨-, rfl⟩ | ⟨hne, rfl⟩⟩ := microConfigure_cases hx
  · exact State.DataSound.inv_of_send { h.dataSound with } rfl (h.busy (by simp [hq])) hm hr
      (fifo_index := fun _ => Nat.zero_le _)
  · have hi : s.fidx.toNat < 6 := lt_of_le_of_ne (h.prog_index hq) hne
    exact { h with
      prog_index := fun _ => fidx_succ_le hi (by decide)
      fifo_index := fun hf => absurd (hq.symm.trans hf) nofun }

/-- A frame byte is loaded only below FLEN, so FIDX never passes it. -/
theorem microFifo_inv {s t : State} (h : s.Inv) (hq : s.seq = .sFifo)
    (hx : microFifo s = .next t) : t.Inv := by
  rcases microFifo_cases hx with ⟨hi, -, rfl⟩ | ⟨-, rfl⟩
  · exact { h with
      prog_index := fun hp => absurd (hq.symm.trans hp) nofun
      fifo_index := fun _ => fidx_succ_le hi s.flen.isLt }
  · exact State.DataSound.inv_of_send { h.dataSound with } rfl (h.busy (by simp [hq]))
      (h.mode_eq.trans (by rw [hq]; rfl)) (h.send_ready (by rw [hq]; rfl))

/-- Polling begins with TIMEDOUT cleared. -/
theorem microTransmit_inv {s : State} (h : s.Inv) (hq : s.seq = .sTxgo) :
    (microTransmit s).Inv :=
  State.DataSound.inv_of_send { h.dataSound with } rfl (h.busy (by simp [hq])) rfl
    (h.send_ready (by rw [hq]; rfl)) (poll_running := fun _ => rfl)

/-- A poll goes on polling, or ends with the signal or with the time. -/
theorem microPoll_inv {s : State} (h : s.Inv) (hq : s.seq = .sPoll) : (microPoll s).Inv := by
  have hb := h.busy (by simp [hq])
  have hm : s.mode = .transmit := h.mode_eq.trans (by rw [hq]; rfl)
  have hr := h.send_ready (by rw [hq]; rfl)
  unfold microPoll
  split_ifs
  · exact State.DataSound.inv_of_send { h.dataSound with } rfl hb hm hr
  · exact State.DataSound.inv_of_send { h.dataSound with } rfl hb hm hr
  · exact { h with }

/-- SEND ends in IDLE and Sleep with the frame discarded, ERR 0 or 5. -/
theorem microSleep_inv {s : State} (h : s.Inv) : (microSleep s).Inv := by
  unfold microSleep
  split_ifs
  · exact State.DataSound.inv_of_not_send
      { h.dataSound with frame_whole := nofun, err_known := show (5 : Byte).toNat ≤ 7 by decide }
      rfl (iff_of_true rfl rfl) rfl
  · exact State.DataSound.inv_of_not_send
      { h.dataSound with frame_whole := nofun, err_known := Nat.zero_le _ }
      rfl (iff_of_true rfl rfl) rfl

/-- Every micro-step of the engine keeps the invariant. -/
theorem engineTurn_inv {s t : State} (h : s.Inv) (hx : engineTurn s = .next t) : t.Inv := by
  cases hq : s.seq with
  | idle => rw [engineTurn_idle hq] at hx; cases hx; exact h
  | iVer => rw [engineTurn_iVer hq] at hx; cases hx; exact microVersion_inv h hq
  | iRstA => rw [engineTurn_iRstA hq] at hx; cases hx; exact microResetAssert_inv h hq
  | iRstB => rw [engineTurn_iRstB hq] at hx; cases hx; exact microResetRelease_inv h hq
  | iBase => rw [engineTurn_iBase hq] at hx; cases hx; exact microBaseline_inv h hq
  | sStdby => rw [engineTurn_sStdby hq] at hx; cases hx; exact microStandby_inv h hq
  | sChsel => rw [engineTurn_sChsel hq] at hx; exact microChannel_inv h hq hx
  | sProg => rw [engineTurn_sProg hq] at hx; exact microConfigure_inv h hq hx
  | sFifo => rw [engineTurn_sFifo hq] at hx; exact microFifo_inv h hq hx
  | sTxgo => rw [engineTurn_sTxgo hq] at hx; cases hx; exact microTransmit_inv h hq
  | sPoll => rw [engineTurn_sPoll hq] at hx; cases hx; exact microPoll_inv h hq
  | sSleep => rw [engineTurn_sSleep hq] at hx; cases hx; exact microSleep_inv h

/-! ### The other agents, and the step -/

/-- A tick changes at most ELAPSED, of which the invariant does not speak. -/
theorem State.tick_inv {s : State} (h : s.Inv) : s.tick.Inv := by
  unfold State.tick
  split_ifs
  · exact { h with }
  · exact { h with }
  · exact h

/-- Every installation's reset state meets the invariant. -/
theorem State.resetWith_inv (p : Params) : (State.resetWith p).Inv :=
  State.DataSound.inv_of_not_send
    { region_known := nofun
      frame_fits := Nat.zero_le _
      frame_whole := nofun
      err_known := Nat.zero_le _
      mem_wf := .nil
      mem_mapped := nofun }
    rfl (iff_of_true rfl rfl) rfl

theorem State.resetEngine_inv (s : State) : s.resetEngine.Inv :=
  { State.resetWith_inv s.params with }

/-- The turn of any agent keeps the invariant. -/
theorem takeTurn_inv {s t : State} (h : s.Inv) {u : Turn} (hx : takeTurn u s = .next t) :
    t.Inv := by
  cases u with
  | hostWrite a v => exact hostWrite_inv h hx
  | hostRead a => cases hx; exact { h with }
  | tick => cases hx; exact State.tick_inv h
  | resetPin => cases hx; exact s.resetEngine_inv
  | engine => exact engineTurn_inv h hx

/-- Settles O41: the base case, for the parameters of `State.reset`. -/
theorem soundAtReset : Obligations.SoundAtReset := State.resetWith_inv Config.params

/-- Settles O42: the engine's own turn or the first pending one, which starts from a state that
differs in the agenda alone. -/
theorem everyStepKeepsSoundness : Obligations.EveryStepKeepsSoundness := by
  intro s t h hx
  rcases step_cases hx with ⟨-, hx⟩ | ⟨u, rest, -, hx⟩
  · exact engineTurn_inv h hx
  · exact takeTurn_inv (s := { s with agenda := rest }) { h with } hx

end Sys2Proof.Machine

/-! PROOF. What the host sees and reaches: the register map of 10_state.md R21, the bits of STATUS,
host reads and host writes, the refusals, and the values after reset. -/

namespace Sys2Proof.Machine

/-! ### The host register map -/

theorem locateLow_addr {n : Nat} (h : n < 0x10) :
    (locateLow n).addr = BitVec.ofNat 16 n ∧ locateLow n ≠ .unmapped := by
  interval_cases n <;> exact ⟨rfl, nofun⟩

theorem locateMiddle_addr {n : Nat} (h0 : 0x10 ≤ n) (h1 : n < 0x20)
    (hm : locateMiddle n ≠ .unmapped) : (locateMiddle n).addr = BitVec.ofNat 16 n := by
  revert hm
  interval_cases n <;> decide

theorem locateMiddle_eq_unmapped {n : Nat} (h0 : 0x10 ≤ n) (h1 : n < 0x20) :
    locateMiddle n = .unmapped ↔ n = 0x1B ∨ n = 0x1F := by
  interval_cases n <;> simp [locateMiddle]

theorem locateGroups_addr {n : Nat} (h0 : 0x20 ≤ n) (hm : locateGroups n ≠ .unmapped) :
    (locateGroups n).addr = BitVec.ofNat 16 n := by
  unfold locateGroups at hm ⊢
  split_ifs at hm ⊢
  · exact congrArg (BitVec.ofNat 16) (Nat.add_sub_cancel' (by omega))
  · exact congrArg (BitVec.ofNat 16) (Nat.add_sub_cancel' (by omega))
  · exact congrArg (BitVec.ofNat 16) (Nat.add_sub_cancel' (by omega))
  · exact congrArg (BitVec.ofNat 16) (Nat.add_sub_cancel' (by omega))
  · exact absurd rfl hm

theorem locateGroups_eq_unmapped (n : Nat) : locateGroups n = .unmapped ↔ 0x54 ≤ n := by
  unfold locateGroups
  split_ifs <;> simp <;> omega

theorem locateBuffers_addr {n : Nat} (h0 : 0x100 ≤ n) (hm : locateBuffers n ≠ .unmapped) :
    (locateBuffers n).addr = BitVec.ofNat 16 n := by
  unfold locateBuffers at hm ⊢
  split_ifs at hm ⊢
  · exact congrArg (BitVec.ofNat 16) (Nat.add_sub_cancel' (by omega))
  · exact absurd rfl hm
  · exact congrArg (BitVec.ofNat 16) (Nat.add_sub_cancel' (by omega))
  · exact absurd rfl hm

theorem locateBuffers_eq_unmapped {n : Nat} (h0 : 0x100 ≤ n) :
    locateBuffers n = .unmapped ↔ n = 0x1FF ∨ 0x240 ≤ n := by
  unfold locateBuffers
  split_ifs <;> simp <;> omega

/-! The four parts of the map, each on its own range of addresses. -/

theorem locate_of_low {a : BitVec 16} (h : a.toNat < 0x10) : locate a = locateLow a.toNat :=
  if_pos h

theorem locate_of_middle {a : BitVec 16} (h0 : 0x10 ≤ a.toNat) (h1 : a.toNat < 0x20) :
    locate a = locateMiddle a.toNat := by
  rw [locate, if_neg (by omega), if_pos h1]

theorem locate_of_groups {a : BitVec 16} (h0 : 0x20 ≤ a.toNat) (h1 : a.toNat < 0x100) :
    locate a = locateGroups a.toNat := by
  rw [locate, if_neg (by omega), if_neg (by omega), if_pos h1]

theorem locate_of_buffers {a : BitVec 16} (h0 : 0x100 ≤ a.toNat) :
    locate a = locateBuffers a.toNat := by
  rw [locate, if_neg (by omega), if_neg (by omega), if_neg (by omega)]

/-- An address lies in one of the four parts of the map. -/
theorem hostAddress_cases (a : BitVec 16) :
    a.toNat < 0x10 ∨ (0x10 ≤ a.toNat ∧ a.toNat < 0x20) ∨ (0x20 ≤ a.toNat ∧ a.toNat < 0x100) ∨
      0x100 ≤ a.toNat := by omega

/-- A mapped address is the address of what stands there. -/
theorem locate_addr {a : BitVec 16} (hm : locate a ≠ .unmapped) : (locate a).addr = a := by
  refine Eq.trans ?_ (show BitVec.ofNat 16 a.toNat = a by simp)
  rcases hostAddress_cases a with h | ⟨h0, h1⟩ | ⟨h0, h1⟩ | h0
  · rw [locate_of_low h]; exact (locateLow_addr h).1
  · rw [locate_of_middle h0 h1] at hm ⊢; exact locateMiddle_addr h0 h1 hm
  · rw [locate_of_groups h0 h1] at hm ⊢; exact locateGroups_addr h0 hm
  · rw [locate_of_buffers h0] at hm ⊢; exact locateBuffers_addr h0 hm

theorem locate_eq_unmapped (a : BitVec 16) :
    locate a = .unmapped ↔ a.toNat = 0x1B ∨ a.toNat = 0x1F ∨ (0x54 ≤ a.toNat ∧ a.toNat ≤ 0xFF) ∨
      a.toNat = 0x1FF ∨ 0x240 ≤ a.toNat := by
  rcases hostAddress_cases a with h | ⟨h0, h1⟩ | ⟨h0, h1⟩ | h0
  · rw [locate_of_low h]
    exact iff_of_false (locateLow_addr h).2 (by omega)
  · rw [locate_of_middle h0 h1, locateMiddle_eq_unmapped h0 h1]; omega
  · rw [locate_of_groups h0 h1, locateGroups_eq_unmapped]; omega
  · rw [locate_of_buffers h0, locateBuffers_eq_unmapped h0]; omega

theorem ne_zero_of_toNat_pos {a : BitVec 16} (h : 0 < a.toNat) : a ≠ 0 := by
  rintro rfl
  simp at h

/-- CMD stands at address 0 alone. -/
theorem locate_ne_cmd {a : BitVec 16} (h : a ≠ 0) : locate a ≠ .cmd := fun hc =>
  h (by simpa [hc, HostLoc.addr] using (locate_addr (a := a) (by simp [hc])).symm)

/-- Settles O47: on each of the four parts of the map. -/
theorem hostMapIsOneToOne : Obligations.HostMapIsOneToOne := fun a =>
  ⟨locate_addr, locate_eq_unmapped a⟩

theorem locate_nwkskey {a : BitVec 16} {k : Nat} (hk : k < 16) (ha : a.toNat = 0x20 + k) :
    locate a = .nwkskey k := by
  rw [locate_of_groups (by omega) (by omega), locateGroups, if_pos (by omega), ha,
    Nat.add_sub_cancel_left]

theorem locate_appskey {a : BitVec 16} {k : Nat} (hk : k < 16) (ha : a.toNat = 0x30 + k) :
    locate a = .appskey k := by
  rw [locate_of_groups (by omega) (by omega), locateGroups, if_neg (by omega), if_pos (by omega),
    ha, Nat.add_sub_cancel_left]

theorem locate_devaddr {a : BitVec 16} {k : Nat} (hk : k < 4) (ha : a.toNat = 0x10 + k) :
    locate a = .devaddr k := by
  rw [locate_of_middle (by omega) (by omega), ha]
  interval_cases k <;> rfl

/-- A key's address holds a byte of one of the two keys. -/
theorem locate_key {a : BitVec 16} (h0 : 0x20 ≤ a.toNat) (h1 : a.toNat < 0x40) :
    ∃ k, locate a = .nwkskey k ∨ locate a = .appskey k := by
  by_cases h : a.toNat < 0x30
  · exact ⟨a.toNat - 0x20, .inl (locate_nwkskey (by omega) (by omega))⟩
  · exact ⟨a.toNat - 0x30, .inr (locate_appskey (by omega) (by omega))⟩

/-! ### What the host reads -/

/-- Bits 6:5 of STATUS are the code of MODE. -/
theorem State.status_mode (s : State) : s.status.extractLsb' 5 2 = s.mode.code := by
  refine BitVec.eq_of_getLsbD_eq fun i hi => ?_
  simp only [State.status, BitVec.getLsbD_extractLsb', BitVec.getLsbD_append]
  interval_cases i <;> simp

/-- Settles O48: STATUS is put together from its registers' bits, so each is found at its place. -/
theorem statusBitsAreTheirRegisters : Obligations.StatusBitsAreTheirRegisters := by
  intro s
  refine ⟨?_, ?_, ?_, ?_, ?_, s.status_mode.trans (by cases s.mode <;> rfl), ?_⟩
  all_goals
    simp only [State.status, BitVec.getLsbD_append]
    simp

/-- What a read returns at any location does not depend on the keys. -/
theorem State.load_keys (s : State) (nwk app : Block) (loc : HostLoc) :
    ({ s with nwkskey := nwk, appskey := app } : State).load loc = s.load loc := by
  cases loc <;> rfl

/-- Settles O50. -/
theorem keysNeverReadBack : Obligations.KeysNeverReadBack := by
  refine ⟨fun s nwk app a => s.load_keys nwk app _, fun s a h0 h1 => ?_⟩
  obtain ⟨k, hk | hk⟩ := locate_key h0 h1
  · rw [hk]; rfl
  · rw [hk]; rfl

/-! ### What the host writes -/

/-- A host write to anything but CMD while BUSY = 0 is the store at the location of the address. -/
theorem hostWrite_of_ne_cmd {a : BitVec 16} {v : Byte} {s : State} (hb : s.busy = false)
    (ha : locate a ≠ .cmd) : hostWrite a v s = .next (s.store (locate a) v) := by
  unfold hostWrite
  rw [if_neg (by simp [hb])]
  split
  · exact absurd ‹_› ha
  · rfl

/-- A step that takes such a write off the agenda. -/
theorem step_hostWrite {s : State} {a : BitVec 16} {v : Byte} {rest : List Turn}
    (hs : s.agenda = .hostWrite a v :: rest) (hb : s.busy = false) (ha : a ≠ 0) :
    step s = .next ({ s with agenda := rest }.store (locate a) v) :=
  (step_of_agenda_cons hs).trans (hostWrite_of_ne_cmd hb (locate_ne_cmd ha))

/-- The low byte of a 16-bit register replaced, as a mask (20_memory.md R64). -/
theorem setLow_eq_mask (r : BitVec 16) (v : Byte) :
    setLow r v = (r &&& 0xFF00) ||| v.zeroExtend 16 := by
  refine BitVec.eq_of_getLsbD_eq fun i hi => ?_
  simp only [setLow, byteAt, BitVec.getLsbD_append, BitVec.getLsbD_or, BitVec.getLsbD_and]
  interval_cases i <;> simp

/-- The high byte of a 16-bit register replaced, as a mask (20_memory.md R64). -/
theorem setHigh_eq_mask (r : BitVec 16) (v : Byte) :
    setHigh r v = (r &&& 0x00FF) ||| (v.zeroExtend 16 <<< 8) := by
  refine BitVec.eq_of_getLsbD_eq fun i hi => ?_
  simp only [setHigh, byteAt, BitVec.getLsbD_append, BitVec.getLsbD_or, BitVec.getLsbD_and]
  interval_cases i <;> simp

theorem byteAt_append_zero {n : Nat} (x : BitVec n) (b : Byte) : byteAt (x ++ b) 0 = b := by
  ext i hi
  simp [byteAt, BitVec.getLsbD_append, hi]

theorem byteAt_append_succ {n : Nat} (x : BitVec n) (b : Byte) (k : Nat) :
    byteAt (x ++ b) (k + 1) = byteAt x k := by
  refine BitVec.eq_of_getLsbD_eq fun i hi => ?_
  simp only [byteAt, BitVec.getLsbD_extractLsb', BitVec.getLsbD_append]
  rw [if_neg (by omega), show 8 * (k + 1) + i - 8 = 8 * k + i by omega]

theorem byteAt_byte (b : Byte) : byteAt b 0 = b := by simp [byteAt]

/-- The bytes of a 32-bit register after one of them is replaced. -/
theorem byteAt_setByte32 (r : BitVec 32) (v : Byte) {k j : Nat} (hk : k < 4) (hj : j < 4) :
    byteAt (setByte32 r k v) j = if j = k then v else byteAt r j := by
  interval_cases k <;> interval_cases j <;>
    simp [setByte32, byteAt_append_zero, byteAt_append_succ, byteAt_byte]

/-- The bytes of a block after one of them is replaced. -/
theorem block_get_set (b : Block) (v : Byte) {k j : Nat} (hk : k < 16) (hj : j < 16) :
    (b.set k v).get j = if j = k then v else b.get j := by
  split_ifs with h
  · rw [h, b.get_set_same k v hk]
  · exact b.get_set_other k j v hk hj h

/-- Settles O51: the location of each address, and what a store leaves there. -/
theorem hostWritesReachTheOperands : Obligations.HostWritesReachTheOperands := by
  intro s a v rest hs hb
  have hw (ha : a ≠ 0) := step_hostWrite hs hb ha
  refine ⟨?dir, ?port, ?fcntL, ?fcntH, ?plen, ?blkidx, ?mlen, ?drsel, ?chsel, ?tmoL, ?tmoH, ?region,
    ?devaddr, ?nwkskey, ?appskey⟩
  case fcntL => rintro rfl; rw [← setLow_eq_mask]; exact hw (by decide)
  case fcntH => rintro rfl; rw [← setHigh_eq_mask]; exact hw (by decide)
  case tmoL => rintro rfl; rw [← setLow_eq_mask]; exact hw (by decide)
  case tmoH => rintro rfl; rw [← setHigh_eq_mask]; exact hw (by decide)
  case region =>
    rintro rfl
    refine (hw (by decide)).trans (congrArg Host.Outcome.next ?_)
    change (if s.sess then _ else _) = _
    split_ifs <;> rfl
  case devaddr =>
    intro hsess k hk ha
    refine ⟨setByte32 s.devaddr k v, ?_, fun j hj => byteAt_setByte32 s.devaddr v hk hj⟩
    rw [hw (ne_zero_of_toNat_pos (by omega)), locate_devaddr hk ha]
    exact congrArg Host.Outcome.next (if_neg (by simp [hsess]))
  case nwkskey =>
    intro hsess k hk ha
    refine ⟨s.nwkskey.set k v, ?_, fun j hj => block_get_set s.nwkskey v hk hj⟩
    rw [hw (ne_zero_of_toNat_pos (by omega)), locate_nwkskey hk ha]
    exact congrArg Host.Outcome.next (if_neg (by simp [hsess]))
  case appskey =>
    intro hsess k hk ha
    refine ⟨s.appskey.set k v, ?_, fun j hj => block_get_set s.appskey v hk hj⟩
    rw [hw (ne_zero_of_toNat_pos (by omega)), locate_appskey hk ha]
    exact congrArg Host.Outcome.next (if_neg (by simp [hsess]))
  all_goals rintro rfl; exact hw (by decide)

/-! ### What the host cannot write -/

/-- FLEN, FIDX, ELAPSED, DRCFG, CHCFG and the two unmapped addresses among them. -/
theorem State.store_locateMiddle (s : State) (v : Byte) {n : Nat} (h0 : 0x14 ≤ n) (h1 : n < 0x20) :
    s.store (locateMiddle n) v = s := by
  interval_cases n <;> rfl

/-- KS, MIC and the unmapped addresses above them. -/
theorem State.store_locateGroups (s : State) (v : Byte) {n : Nat} (h0 : 0x40 ≤ n) :
    s.store (locateGroups n) v = s := by
  unfold locateGroups
  rw [if_neg (by omega), if_neg (by omega)]
  split_ifs <;> rfl

/-- PBUF's addresses beyond PBUF_SIZE and what lies between and above the buffers. -/
theorem State.store_locateBuffers (s : State) (v : Byte) {n : Nat}
    (h : 0x100 + s.params.pbufSize ≤ n ∧ n ≤ 0x1FF ∨ n = 0x1FF ∨ 0x240 ≤ n) :
    s.store (locateBuffers n) v = s := by
  unfold locateBuffers
  split_ifs
  · exact if_neg (by omega)
  · rfl
  · omega
  · rfl

/-- With a session loaded, the credential addresses and the read-only ones among them. -/
theorem State.store_locked {s : State} (v : Byte) (hs : s.sess = true) {a : BitVec 16}
    (h0 : 0x0F ≤ a.toNat) (h1 : a.toNat ≤ 0x3F) : s.store (locate a) v = s := by
  have hl : ∀ t : State, (if s.sess then s else t) = s := fun _ => if_pos hs
  obtain h | h | h | h : a.toNat = 0x0F ∨ (0x10 ≤ a.toNat ∧ a.toNat < 0x14) ∨
      (0x14 ≤ a.toNat ∧ a.toNat < 0x20) ∨ 0x20 ≤ a.toNat := by omega
  · rw [locate_of_low (by omega), h]; exact hl _
  · rw [locate_devaddr (k := a.toNat - 0x10) (by omega) (by omega)]; exact hl _
  · rw [locate_of_middle (by omega) h.2]; exact s.store_locateMiddle v h.1 h.2
  · obtain ⟨k, hk | hk⟩ := locate_key h (by omega)
    · rw [hk]; exact hl _
    · rw [hk]; exact hl _

/-- Settles O53: range by range, the store at such an address leaves the state as it is. -/
theorem otherHostWritesAreIgnored : Obligations.OtherHostWritesAreIgnored := by
  intro s a v rest hs hb h
  have ha : a ≠ 0 := ne_zero_of_toNat_pos (by omega)
  refine (step_hostWrite hs hb ha).trans (congrArg Host.Outcome.next ?_)
  rcases h with ⟨h0, h1⟩ | ⟨h0, h1⟩ | ⟨h0, h1⟩ | h | h | h | ⟨hsess, h0, h1⟩
  · rw [locate_of_low (by omega)]
    obtain h | h | h : a.toNat = 1 ∨ a.toNat = 2 ∨ a.toNat = 3 := by omega
    all_goals rw [h]; rfl
  · rw [locate_of_middle (by omega) (by omega)]
    exact State.store_locateMiddle _ v h0 (by omega)
  · rw [locate_of_groups (by omega) (by omega)]
    exact State.store_locateGroups _ v h0
  · rw [locate_of_buffers (by omega)]
    exact State.store_locateBuffers _ v (.inl h)
  · rw [locate_of_buffers (by omega)]
    exact State.store_locateBuffers _ v (.inr (.inl h))
  · rw [locate_of_buffers (by omega)]
    exact State.store_locateBuffers _ v (.inr (.inr h))
  · exact State.store_locked (s := { s with agenda := rest }) v hsess h0 h1

/-! ### What is refused -/

/-- No channel exists at or above the region's count. -/
theorem Params.channel?_eq_none (p : Params) {r k : Nat} (h : p.nCh r ≤ k) :
    p.channel? r k = none := by
  unfold Params.nCh at h
  unfold Params.channel?
  split at h
  · exact List.getElem?_eq_none h
  · rfl

/-- Settles O54. -/
theorem unspecifiedCasesAreRefused : Obligations.UnspecifiedCasesAreRefused := by
  intro s
  refine ⟨fun a v rest hs hb => ?_, fun hs hk => ?_, fun hs hl => ?_⟩
  · exact (step_of_agenda_cons hs).trans (if_pos hb)
  · have hc : s.channel? s.chsel.toNat = none := Params.channel?_eq_none _ hk
    change execSetch s = _
    rw [execSetch, if_pos hs, hc]
  · change execMicgen s = _
    rw [execMicgen, if_pos hs, if_neg (Nat.not_le.2 hl)]

/-! ### The values after reset -/

/-- DRCFG's reset value is the triple of DR_TABLE[DR_DEFAULT], which an index in range has. -/
theorem Params.defaultTriple_eq (p : Params) (h : p.drDefault < p.nDr) :
    ∃ d, p.drTable[p.drDefault]? = some d ∧ p.defaultTriple = d.triple := by
  have hd := List.getElem?_eq_getElem (show p.drDefault < p.drTable.length from h)
  exact ⟨_, hd, by simp [Params.defaultTriple, Params.profile?, hd]⟩

/-- Settles O58: every value is the one `State.resetWith` writes; DR_DEFAULT is 0, and DR_TABLE is
never empty. -/
theorem resetValuesOfEveryRegister : Obligations.ResetValuesOfEveryRegister := by
  have hd := Params.defaultTriple_eq Config.params (Nat.succ_pos _)
  exact ⟨rfl, rfl, rfl, rfl, rfl, rfl, rfl, rfl, rfl, rfl, rfl, rfl, rfl, rfl, rfl, rfl, rfl, rfl,
    rfl, rfl, rfl, rfl, rfl, rfl, rfl, rfl, rfl, rfl, hd, rfl, rfl, rfl, rfl, rfl, rfl, rfl⟩

end Sys2Proof.Machine

/-! PROOF. The memory map of 20_memory.md as the host and the transceiver meet it: what a host write
leaves in the two buffers, what a host read returns, and the address byte of a bus access. -/

namespace Sys2Proof.Machine

/-! ### One buffer byte written -/

/-- The byte written reads as written. -/
theorem State.readByte_setMem_write_same (s : State) (a : Nat) (v : Byte) :
    (s.setMem (s.mem.write a v)).readByte a = v := by simp

/-- Every other byte reads as before. -/
theorem State.readByte_setMem_write_other (s : State) {a b : Nat} (v : Byte) (h : b ≠ a) :
    (s.setMem (s.mem.write a v)).readByte b = s.readByte b :=
  State.readByte_congr _ _ b (s.mem.find_write_other a b v h) rfl

/-! ### The addresses of the result registers and the buffers -/

theorem locate_ks {a : BitVec 16} {k : Nat} (hk : k < 16) (ha : a.toNat = 0x40 + k) :
    locate a = .ks k := by
  rw [locate_of_groups (by omega) (by omega), locateGroups, if_neg (by omega), if_neg (by omega),
    if_pos (by omega), ha, Nat.add_sub_cancel_left]

theorem locate_mic {a : BitVec 16} {k : Nat} (hk : k < 4) (ha : a.toNat = 0x50 + k) :
    locate a = .mic k := by
  rw [locate_of_groups (by omega) (by omega), locateGroups, if_neg (by omega), if_neg (by omega),
    if_neg (by omega), if_pos (by omega), ha, Nat.add_sub_cancel_left]

/-- The converse of `locate_pbuf`. -/
theorem locate_eq_pbuf {a : BitVec 16} {k : Nat} (hk : k < 255) (ha : a.toNat = 0x100 + k) :
    locate a = .pbuf k := by
  rw [locate_of_buffers (by omega), locateBuffers, if_pos (by omega), ha, Nat.add_sub_cancel_left]

/-- The converse of `locate_fbuf`. -/
theorem locate_eq_fbuf {a : BitVec 16} {k : Nat} (hk : k < 64) (ha : a.toNat = 0x200 + k) :
    locate a = .fbuf k := by
  rw [locate_of_buffers (by omega), locateBuffers, if_neg (by omega), if_neg (by omega),
    if_pos (by omega), ha, Nat.add_sub_cancel_left]

/-! ### Host writes to the buffers -/

/-- A host write at an address of PBUF writes that byte of memory and nothing else. -/
theorem State.store_at_pbuf (s : State) (v : Byte) {a : BitVec 16} (h0 : 0x100 ≤ a.toNat)
    (h1 : a.toNat ≤ 0x1FE) (h2 : a.toNat < 0x100 + s.params.pbufSize) :
    s.store (locate a) v = s.setMem (s.mem.write a.toNat v) := by
  obtain ⟨k, hk⟩ := Nat.exists_eq_add_of_le h0
  rw [locate_eq_pbuf (by omega) hk, hk]
  exact if_pos (by omega)

/-- A host write at an address of FBUF writes that byte of memory and clears FVALID. -/
theorem State.store_at_fbuf (s : State) (v : Byte) {a : BitVec 16} (h0 : 0x200 ≤ a.toNat)
    (h1 : a.toNat ≤ 0x23F) :
    s.store (locate a) v = { s.setMem (s.mem.write a.toNat v) with fvalid := false } := by
  obtain ⟨k, hk⟩ := Nat.exists_eq_add_of_le h0
  rw [locate_eq_fbuf (by omega) hk, hk]
  rfl

/-- Settles O52: in each buffer the step is one memory write, with FVALID cleared for FBUF. -/
theorem hostWritesReachTheBuffers : Obligations.HostWritesReachTheBuffers := by
  intro s a v rest hs hb
  refine ⟨fun h0 h1 h2 => ?pbuf, fun h0 h1 => ?fbuf⟩
  case pbuf =>
    rw [step_hostWrite hs hb (ne_zero_of_toNat_pos (by omega)),
      State.store_at_pbuf { s with agenda := rest } v h0 h1 h2]
    exact ⟨_, rfl, State.readByte_setMem_write_same _ _ v,
      fun b h => State.readByte_setMem_write_other _ v h, rfl⟩
  case fbuf =>
    rw [step_hostWrite hs hb (ne_zero_of_toNat_pos (by omega)),
      State.store_at_fbuf { s with agenda := rest } v h0 h1]
    exact ⟨_, rfl, State.readByte_setMem_write_same { s with agenda := rest } _ v,
      fun b h => State.readByte_setMem_write_other { s with agenda := rest } v h, rfl⟩

/-! ### Host reads -/

/-- What a read returns does not depend on the turns still pending. -/
theorem State.load_agenda (s : State) (rest : List Turn) (loc : HostLoc) :
    ({ s with agenda := rest } : State).load loc = s.load loc := by
  cases loc <;> rfl

/-- A step that takes a host read off the agenda adds the byte to what the host has seen. -/
theorem step_hostRead {s : State} {a : BitVec 16} {rest : List Turn}
    (hs : s.agenda = .hostRead a :: rest) :
    step s = .next { s with
      agenda := rest, hostReads := s.hostReads ++ [(a, s.load (locate a))] } := by
  rw [step_of_agenda_cons hs, takeTurn, State.hostRead, State.load_agenda]

/-- What a read returns at an address given by its number. -/
theorem State.load_of_toNat (s : State) {a : BitVec 16} {n : Nat} (h : a.toNat = n) :
    s.load (locate a) = s.load (locate (BitVec.ofNat 16 n)) := by
  rw [← h, BitVec.ofNat_toNat, BitVec.setWidth_eq]

/-- DIR is read in bit 0, and the other bits are 0 (10_state.md R27). -/
theorem State.load_dir (s : State) :
    (s.load .dir).getLsbD 0 = s.dir ∧ (s.load .dir).extractLsb' 1 7 = 0 := by
  have hl : s.load .dir = if s.dir then 1 else 0 := rfl
  rw [hl]
  cases s.dir <;> decide

/-- PBUF's address reads the byte that memory holds there, below PBUF_SIZE. -/
theorem State.load_at_pbuf (s : State) {a : BitVec 16} (h0 : 0x100 ≤ a.toNat)
    (h1 : a.toNat ≤ 0x1FE) :
    s.load (locate a) = if a.toNat < 0x100 + s.params.pbufSize then s.readByte a.toNat else 0 := by
  obtain ⟨k, hk⟩ := Nat.exists_eq_add_of_le h0
  rw [locate_eq_pbuf (by omega) hk, hk]
  exact if_congr (Nat.add_lt_add_iff_left).symm rfl rfl

/-- FBUF's address reads the byte that memory holds there. -/
theorem State.load_at_fbuf (s : State) {a : BitVec 16} (h0 : 0x200 ≤ a.toNat)
    (h1 : a.toNat ≤ 0x23F) : s.load (locate a) = s.readByte a.toNat := by
  obtain ⟨k, hk⟩ := Nat.exists_eq_add_of_le h0
  rw [locate_eq_fbuf (by omega) hk, hk]
  rfl

/-- Settles O49: the step, then row by row of the register map what stands at the address. -/
theorem hostReadsChangeNothing : Obligations.HostReadsChangeNothing := by
  intro s a rest hs
  have row {n : Nat} (h : a.toNat = n) := s.load_of_toNat h
  refine ⟨step_hostRead hs, ?cmd, ?status, ?err, ?seq, ?dir, ?port, ?fcntL, ?fcntH, ?plen, ?blkidx,
    ?mlen, ?drsel, ?chsel, ?tmoL, ?tmoH, ?region, ?devaddr0, ?devaddr1, ?devaddr2, ?devaddr3, ?flen,
    ?fidx, ?elapsedL, ?elapsedH, ?drcfg0, ?drcfg1, ?drcfg2, ?chcfg0, ?chcfg1, ?chcfg2, ?keys, ?ks,
    ?mic, ?pbuf, ?pbufBeyond, ?fbuf, ?unmapped⟩
  case seq => exact fun h => (row h).trans (show s.seq.code = _ by cases s.seq <;> rfl)
  case dir => intro h; rw [row h]; exact s.load_dir
  case keys => exact keysNeverReadBack.2 s a
  case ks =>
    intro h0 h1
    rw [locate_ks (k := a.toNat - 0x40) (by omega) (by omega)]
    rfl
  case mic =>
    intro h0 h1
    rw [locate_mic (k := a.toNat - 0x50) (by omega) (by omega)]
    rfl
  case pbuf => exact fun h0 h1 h2 => (s.load_at_pbuf h0 h1).trans (if_pos h2)
  case pbufBeyond =>
    exact fun h0 h1 => (s.load_at_pbuf (by omega) h1).trans (if_neg (by omega))
  case fbuf => exact fun h0 h1 => s.load_at_fbuf h0 h1
  case unmapped =>
    intro h
    rw [(locate_eq_unmapped a).2 h]
    rfl
  all_goals exact fun h => row h

/-! ### The bus -/

/-- The address byte of a bus write: the high bit set, the address below it (20_memory.md R70). -/
theorem busWrite_addressByte (a : BitVec 7) :
    (0x80 ||| a.zeroExtend 8 : Byte).getLsbD 7 = true ∧
      (0x80 ||| a.zeroExtend 8 : Byte).extractLsb' 0 7 = a := by
  refine ⟨by simp, BitVec.eq_of_getLsbD_eq fun i hi => ?_⟩
  simp only [BitVec.getLsbD_extractLsb', BitVec.getLsbD_or]
  interval_cases i <;> simp

/-- The address byte of a bus read: the high bit clear, the address below it (20_memory.md R71). -/
theorem busRead_addressByte (a : BitVec 7) :
    (0x7F &&& a.zeroExtend 8 : Byte).getLsbD 7 = false ∧
      (0x7F &&& a.zeroExtend 8 : Byte).extractLsb' 0 7 = a := by
  refine ⟨by simp, BitVec.eq_of_getLsbD_eq fun i hi => ?_⟩
  simp only [BitVec.getLsbD_extractLsb', BitVec.getLsbD_and]
  interval_cases i <;> simp

/-- Settles O57. -/
theorem busAddressByteMarksWrites : Obligations.BusAddressByteMarksWrites := by
  intro a v
  obtain ⟨hw, haw⟩ := busWrite_addressByte a
  obtain ⟨hr, har⟩ := busRead_addressByte a
  exact ⟨_, _, rfl, hw, haw, rfl, hr, har⟩

end Sys2Proof.Machine

/-! PROOF. The encoding of 30_encoding.md: the decoder is the inverse of the encoder on bytes and on
sequences, a decoded byte is the command the step runs, commands leave their operands alone, and the
pseudo-statements LDADDR, LDKEY and LDPAY load what they name. -/

namespace Sys2Proof.Machine

/-! ### The decoder and the encoder -/

/-- The facts of Laws/PerInstr.lean, for every command. -/
theorem commandFields (i : Instr) : Laws.CommandFields.Statement i := by
  cases i with
  | nop => exact Laws.CommandFields.nop
  | ldsess => exact Laws.CommandFields.ldsess
  | ksblk => exact Laws.CommandFields.ksblk
  | crypt => exact Laws.CommandFields.crypt
  | micgen => exact Laws.CommandFields.micgen
  | build => exact Laws.CommandFields.build
  | rinit => exact Laws.CommandFields.rinit
  | setdr => exact Laws.CommandFields.setdr
  | setch => exact Laws.CommandFields.setch
  | send => exact Laws.CommandFields.send

/-- A command byte decodes to its command. -/
theorem decodeByte_encodeByte (i : Instr) : decodeByte (encodeByte i) = .ok i := by
  obtain ⟨hu, hf, hd⟩ := commandFields i
  rw [decodeByte, hu, hf, hd]

/-- A row of the opcode map holds the unit and the function of its command (R92). -/
theorem fields_of_decodeFields {unit func : Nat} {i : Instr} (h : decodeFields unit func = .ok i) :
    unit = i.unitCode.toNat ∧ func = i.funcCode.toNat := by
  unfold decodeFields at h
  split at h
  case h_11 => split_ifs at h
  all_goals cases h; exact ⟨rfl, rfl⟩

/-- A byte is its two fields, so that the decoder drops no bit (R91). -/
theorem fields_append (c : Byte) : c.extractLsb' 4 4 ++ c.extractLsb' 0 4 = c := by
  refine BitVec.eq_of_getLsbD_eq fun k hk => ?_
  rw [BitVec.getLsbD_append]
  split_ifs with h
  · simp [h]
  · simp [show k - 4 < 4 by omega, show 4 + (k - 4) = k by omega]

/-- A byte decodes to a command exactly when it is the command's encoding. -/
theorem decodeByte_eq_ok_iff {c : Byte} {i : Instr} : decodeByte c = .ok i ↔ c = encodeByte i := by
  constructor
  · intro h
    obtain ⟨hu, hf⟩ := fields_of_decodeFields h
    rw [← fields_append c, encodeByte, BitVec.eq_of_toNat_eq hu, BitVec.eq_of_toNat_eq hf]
  · rintro rfl
    exact decodeByte_encodeByte i

/-- A sequence decodes when its first byte and the bytes after it do. -/
theorem decodeAll_cons_eq_ok_iff {c : Byte} {rest : List Byte} {is : List Instr} :
    decodeAll (c :: rest) = .ok is ↔
      ∃ i js, decodeByte c = .ok i ∧ decodeAll rest = .ok js ∧ i :: js = is := by
  rw [decodeAll]
  cases decodeByte c with
  | error e => simp
  | ok i => cases decodeAll rest <;> simp

/-- Settles O2, by induction on the bytes. -/
theorem commandSequencesDecodeBack : Obligations.CommandSequencesDecodeBack := by
  intro bytes
  induction bytes with
  | nil =>
    intro is
    cases is with
    | nil => exact iff_of_true rfl rfl
    | cons i js => exact iff_of_false nofun nofun
  | cons c rest ih =>
    intro is
    rw [decodeAll_cons_eq_ok_iff]
    cases is with
    | nil => simp
    | cons i js => simp [ih, decodeByte_eq_ok_iff, encode]

/-- Settles O1: the table lists each command beside its encoding. -/
theorem opcodeMapIsExactlyTheTable : Obligations.OpcodeMapIsExactlyTheTable := by
  intro c i
  rw [decodeByte_eq_ok_iff]
  cases i <;> simp [encodeByte, Instr.unitCode, Instr.funcCode]

/-! ### Issuing a command -/

theorem hostWrite_cmd {c : Byte} {s : State} (hb : s.busy = false) :
    hostWrite 0x0000 c s = issueCommand c s := by
  have hl : locate 0x0000 = .cmd := by decide
  rw [hostWrite, if_neg (by simp [hb]), hl]

/-- Settles O4. -/
theorem stepRunsTheDecodedCommand : Obligations.StepRunsTheDecodedCommand := by
  intro s c rest i hs hb hd
  calc step s = hostWrite 0x0000 c { s with agenda := rest } := step_of_agenda_cons hs
    _ = issueCommand c { s with agenda := rest } := hostWrite_cmd hb
    _ = exec i { s with agenda := rest } := by rw [issueCommand, hd]

/-! ### Commands leave their operands alone -/

/-- The operand registers, the credentials and the parameters (10_state.md R22 to R35, R53). -/
def State.operands (s : State) :=
  (s.dir, s.port, s.fcnt, s.plen, s.blkidx, s.mlen, s.drsel, s.chsel, s.tmo,
    s.devaddr, s.nwkskey, s.appskey, s.region, s.params)

/-- A command's issue step keeps the operands and emits no event. -/
theorem exec_operands {i : Instr} {s t : State} (h : exec i s = .next t) :
    t.operands = s.operands ∧ t.trace = s.trace := by
  cases i with
  | nop => cases h; exact ⟨rfl, rfl⟩
  | ldsess => rcases execLdsess_cases h with ⟨-, rfl⟩ | ⟨-, -, rfl⟩ | ⟨-, -, rfl⟩ <;> exact ⟨rfl, rfl⟩
  | ksblk => rcases execKsblk_cases h with ⟨-, rfl⟩ | ⟨-, rfl⟩ <;> exact ⟨rfl, rfl⟩
  | crypt => rcases execCrypt_cases h with ⟨-, rfl⟩ | ⟨-, rfl⟩ <;> exact ⟨rfl, rfl⟩
  | micgen => rcases execMicgen_cases h with ⟨-, rfl⟩ | ⟨-, -, rfl⟩ <;> exact ⟨rfl, rfl⟩
  | build => rcases execBuild_cases h with ⟨-, rfl⟩ | ⟨-, -, rfl⟩ | ⟨-, -, rfl⟩ <;> exact ⟨rfl, rfl⟩
  | rinit => cases h; exact ⟨rfl, rfl⟩
  | setdr => rcases execSetdr_cases h with ⟨_, -, rfl⟩ | ⟨-, rfl⟩ <;> exact ⟨rfl, rfl⟩
  | setch => rcases execSetch_cases h with ⟨-, rfl⟩ | ⟨-, _, -, rfl⟩ <;> exact ⟨rfl, rfl⟩
  | send => rcases execSend_cases h with ⟨-, rfl⟩ | ⟨-, rfl⟩ <;> exact ⟨rfl, rfl⟩

theorem microVersion_operands (s : State) : (microVersion s).operands = s.operands := by
  unfold microVersion
  split_ifs <;> rfl

theorem microBaseline_operands (s : State) : (microBaseline s).operands = s.operands := by
  unfold microBaseline
  split <;> rfl

theorem microPoll_operands (s : State) : (microPoll s).operands = s.operands := by
  unfold microPoll
  split_ifs <;> rfl

theorem microSleep_operands (s : State) : (microSleep s).operands = s.operands := by
  unfold microSleep
  split_ifs <;> rfl

/-- Every micro-step keeps the operands. -/
theorem engineTurn_operands {s t : State} (h : engineTurn s = .next t) :
    t.operands = s.operands := by
  cases hq : s.seq with
  | idle => rw [engineTurn_idle hq] at h; cases h; rfl
  | iVer => rw [engineTurn_iVer hq] at h; cases h; exact microVersion_operands s
  | iRstA => rw [engineTurn_iRstA hq] at h; cases h; rfl
  | iRstB => rw [engineTurn_iRstB hq] at h; cases h; rfl
  | iBase => rw [engineTurn_iBase hq] at h; cases h; exact microBaseline_operands s
  | sStdby => rw [engineTurn_sStdby hq] at h; cases h; rfl
  | sChsel =>
    rw [engineTurn_sChsel hq] at h
    rcases microChannel_cases h with ⟨-, rfl⟩ | ⟨-, -, _, -, rfl⟩ <;> rfl
  | sProg =>
    rw [engineTurn_sProg hq] at h
    obtain ⟨_, -, ⟨-, rfl⟩ | ⟨-, rfl⟩⟩ := microConfigure_cases h <;> rfl
  | sFifo =>
    rw [engineTurn_sFifo hq] at h
    rcases microFifo_cases h with ⟨-, -, rfl⟩ | ⟨-, rfl⟩ <;> rfl
  | sTxgo => rw [engineTurn_sTxgo hq] at h; cases h; rfl
  | sPoll => rw [engineTurn_sPoll hq] at h; cases h; exact microPoll_operands s
  | sSleep => rw [engineTurn_sSleep hq] at h; cases h; exact microSleep_operands s

/-- Settles O46: the issue steps and the micro-steps, each by its cases. -/
theorem commandsNeverWriteOperands : Obligations.CommandsNeverWriteOperands := by
  intro s t h
  refine ⟨?_, fun ⟨i, hx⟩ => (exec_operands hx).2⟩
  have ho : t.operands = s.operands := by
    rcases h with ⟨i, hx⟩ | hx
    · exact (exec_operands hx).1
    · exact engineTurn_operands hx
  simpa only [State.operands, Prod.mk.injEq] using ho

/-! ### A series of host writes -/

/-- The state with the given turns pending and no others. -/
def State.withAgenda (s : State) (turns : List Turn) : State := { s with agenda := turns }

/-- A host write does not look at the turns still pending, and leaves them pending. -/
theorem State.store_withAgenda (s : State) (turns : List Turn) (loc : HostLoc) (v : Byte) :
    (s.withAgenda turns).store loc v = (s.store loc v).withAgenda turns := by
  cases loc <;> simp only [State.store, apply_ite fun t : State => t.withAgenda turns] <;> rfl

/-- A pending write to a location other than CMD is the store there. -/
theorem step_writeTo {s : State} {loc : HostLoc} {v : Byte} {rest : List Turn}
    (hb : s.busy = false) (hl : locate loc.addr = loc) (hc : loc ≠ .cmd) :
    step (s.withAgenda (writeTo loc v :: rest)) = .next ((s.store loc v).withAgenda rest) := by
  calc step (s.withAgenda (writeTo loc v :: rest))
      = hostWrite loc.addr v (s.withAgenda rest) :=
        step_of_agenda_cons (s := s.withAgenda _) rfl
    _ = .next ((s.withAgenda rest).store (locate loc.addr) v) :=
        hostWrite_of_ne_cmd hb (by rwa [hl])
    _ = .next ((s.store loc v).withAgenda rest) := by rw [hl, State.store_withAgenda]

/-- The writes of a series, each byte with its index. -/
theorem writeSeries_eq_map (loc : Nat → HostLoc) (bytes : List Byte) :
    writeSeries loc bytes = bytes.zipIdx.map fun w => writeTo (loc w.2) w.1 :=
  List.mapIdx_eq_zipIdx_map

section
variable {α : Type} {put : α → State} {upd : α → Byte × Nat → α} {loc : Nat → HostLoc}

/-- Let a part `r` of the state be such that every write of `ws` updates it by `upd` and changes
nothing else: then the pending writes fold `upd` over their bytes. -/
theorem runSteps_writes {ws : List (Byte × Nat)} {rest : List Turn}
    (hb : ∀ r, (put r).busy = false)
    (hloc : ∀ w ∈ ws, locate (loc w.2).addr = loc w.2 ∧ loc w.2 ≠ .cmd)
    (hstore : ∀ r, ∀ w ∈ ws, (put r).store (loc w.2) w.1 = put (upd r w)) (r : α) :
    runSteps ws.length ((put r).withAgenda ((ws.map fun w => writeTo (loc w.2) w.1) ++ rest)) =
      .next ((put (ws.foldl upd r)).withAgenda rest) := by
  induction ws generalizing r with
  | nil => rfl
  | cons w ws ih =>
    obtain ⟨hl, hc⟩ := hloc w List.mem_cons_self
    simp only [List.length_cons, List.map_cons, List.cons_append, runSteps]
    rw [step_writeTo (hb r) hl hc, hstore r w List.mem_cons_self]
    exact ih (fun w hw => hloc w (List.mem_cons_of_mem _ hw))
      (fun r w hw => hstore r w (List.mem_cons_of_mem _ hw)) (upd r w)

/-- The same of the writes of a series. -/
theorem runSteps_writeSeries {bytes : List Byte} {rest : List Turn}
    (hb : ∀ r, (put r).busy = false)
    (hloc : ∀ k < bytes.length, locate (loc k).addr = loc k ∧ loc k ≠ .cmd)
    (hstore : ∀ r v, ∀ k < bytes.length, (put r).store (loc k) v = put (upd r (v, k))) (r : α) :
    runSteps bytes.length ((put r).withAgenda (writeSeries loc bytes ++ rest)) =
      .next ((put (bytes.zipIdx.foldl upd r)).withAgenda rest) := by
  have hrun := runSteps_writes (ws := bytes.zipIdx) (rest := rest) hb
    (fun w hw => hloc w.2 (List.snd_lt_of_mem_zipIdx hw))
    (fun r w hw => hstore r w.1 w.2 (List.snd_lt_of_mem_zipIdx hw)) r
  rwa [List.length_zipIdx, ← writeSeries_eq_map] at hrun

end

/-! ### LDADDR and LDKEY -/

theorem toNat_ofNat_of_lt {w n : Nat} (h : n < 2 ^ w) : (BitVec.ofNat w n).toNat = n :=
  (BitVec.toNat_ofNat n w).trans (Nat.mod_eq_of_lt h)

theorem locate_addr_devaddr {k : Nat} (hk : k < 4) :
    locate (HostLoc.devaddr k).addr = .devaddr k :=
  locate_devaddr hk (toNat_ofNat_of_lt (by omega))

theorem locate_addr_nwkskey {k : Nat} (hk : k < 16) :
    locate (HostLoc.nwkskey k).addr = .nwkskey k :=
  locate_nwkskey hk (toNat_ofNat_of_lt (by omega))

theorem locate_addr_appskey {k : Nat} (hk : k < 16) :
    locate (HostLoc.appskey k).addr = .appskey k :=
  locate_appskey hk (toNat_ofNat_of_lt (by omega))

theorem locate_addr_pbuf {k : Nat} (hk : k < 255) : locate (HostLoc.pbuf k).addr = .pbuf k :=
  locate_eq_pbuf hk (toNat_ofNat_of_lt (by omega))

/-- A 32-bit number is its four bytes (20_memory.md R64). -/
theorem bytes_append (v : BitVec 32) :
    byteAt v 3 ++ byteAt v 2 ++ byteAt v 1 ++ byteAt v 0 = v := by
  refine BitVec.eq_of_getLsbD_eq fun i hi => ?_
  simp only [byteAt, BitVec.getLsbD_append]
  interval_cases i <;> simp

/-- Four bytes placed one by one make the number they are the bytes of. -/
theorem foldl_setByte32 (r v : BitVec 32) :
    (le32 v).zipIdx.foldl (fun r w => setByte32 r w.2 w.1) r = v := by
  simpa [le32, setByte32, byteAt_append_zero, byteAt_append_succ, byteAt_byte] using bytes_append v

/-- Sixteen bytes placed one by one make the block they are the bytes of. -/
theorem foldl_blockSet (r b : Block) :
    b.toList.zipIdx.foldl (fun r w => r.set w.2 w.1) r = b := by
  simp [Block.toList, Quad.toList, Block.set, Quad.set]

theorem runSteps_ldaddr {s : State} (addr : BitVec 32) (hb : s.busy = false)
    (hs : s.sess = false) :
    runSteps 4 (s.withAgenda (Statement.ldaddr addr).accesses) =
      .next ({ s with devaddr := addr }.withAgenda []) := by
  have hrun := runSteps_writeSeries (put := fun r => { s with devaddr := r })
    (upd := fun r w => setByte32 r w.2 w.1) (loc := .devaddr) (bytes := le32 addr) (rest := [])
    (fun _ => hb) (fun k hk => ⟨locate_addr_devaddr hk, nofun⟩)
    (fun _ _ _ _ => if_neg (by simp [hs])) s.devaddr
  rwa [foldl_setByte32, List.append_nil] at hrun

/-- Either key: `put` replaces it and `loc` names its bytes. -/
theorem runSteps_ldkey {put : Block → State} {loc : Nat → HostLoc} (key : Block)
    (hb : ∀ r, (put r).busy = false)
    (hloc : ∀ k < 16, locate (loc k).addr = loc k ∧ loc k ≠ .cmd)
    (hstore : ∀ r v k, (put r).store (loc k) v = put (r.set k v)) (r : Block) :
    runSteps 16 ((put r).withAgenda (writeSeries loc key.toList)) =
      .next ((put key).withAgenda []) := by
  have hrun := runSteps_writeSeries (upd := fun r w => r.set w.2 w.1) (bytes := key.toList)
    (rest := []) hb hloc (fun r v k _ => hstore r v k) r
  rwa [foldl_blockSet, List.append_nil] at hrun

/-- Settles O55: without a session a store at a credential's byte replaces that byte. -/
theorem credentialLoadsTakeEffect : Obligations.CredentialLoadsTakeEffect := by
  intro s addr key hb hs
  refine ⟨runSteps_ldaddr addr hb hs, ?nwk, ?app⟩
  case nwk =>
    exact runSteps_ldkey (put := fun r => { s with nwkskey := r }) key (fun _ => hb)
      (fun k hk => ⟨locate_addr_nwkskey hk, nofun⟩) (fun _ _ _ => if_neg (by simp [hs])) s.nwkskey
  case app =>
    exact runSteps_ldkey (put := fun r => { s with appskey := r }) key (fun _ => hb)
      (fun k hk => ⟨locate_addr_appskey hk, nofun⟩) (fun _ _ _ => if_neg (by simp [hs])) s.appskey

/-! ### LDPAY -/

/-- Bytes written one by one at their indices above `a` are written consecutively from there. -/
theorem foldl_write (a : Nat) (bytes : List Byte) : ∀ (m : Memory) (k : Nat),
    (bytes.zipIdx k).foldl (fun m w => m.write (a + w.2) w.1) m = m.writeBytes (a + k) bytes := by
  induction bytes with
  | nil => intro m k; rfl
  | cons v rest ih => intro m k; exact ih (m.write (a + k) v) (k + 1)

/-- The writes of LDPAY to PBUF, when the bytes fit, are one write of PBUF from its start. -/
theorem runSteps_writePbuf {s : State} {bytes : List Byte} {rest : List Turn} (hb : s.busy = false)
    (hl : bytes.length ≤ 255) (hp : bytes.length ≤ s.params.pbufSize) :
    runSteps bytes.length (s.withAgenda (writeSeries .pbuf bytes ++ rest)) =
      .next ((s.writePbuf bytes).withAgenda rest) := by
  have hrun := runSteps_writeSeries (put := s.setMem)
    (upd := fun m w => m.write (pbufBase + w.2) w.1) (loc := .pbuf) (bytes := bytes) (rest := rest)
    (fun _ => hb) (fun k hk => ⟨locate_addr_pbuf (hk.trans_le hl), nofun⟩)
    (fun _ _ k hk => if_pos (hk.trans_le hp)) s.mem
  rw [foldl_write] at hrun
  rwa [State.writePbuf, List.take_of_length_le hp]

/-- The state LDPAY ends in: PBUF written from its start, and PLEN the number of bytes. -/
def State.withPayload (s : State) (bytes : List Byte) : State :=
  { s.writePbuf bytes with plen := BitVec.ofNat 8 bytes.length }

theorem runSteps_ldpay {s : State} {bytes : List Byte} (hb : s.busy = false)
    (hl : bytes.length ≤ 255) (hp : bytes.length ≤ s.params.pbufSize) :
    runSteps (bytes.length + 1) (s.withAgenda (Statement.ldpay bytes).accesses) =
      .next ((s.withPayload bytes).withAgenda []) :=
  runSteps_add (runSteps_writePbuf hb hl hp)
    ((runSteps_one _).trans (step_writeTo (s := s.writePbuf bytes) hb (by decide) nofun))

/-- PLEN bytes from the start of PBUF are the bytes written there. -/
theorem payload_withPayload (s : State) {bytes : List Byte} (hl : bytes.length ≤ 255)
    (hp : bytes.length ≤ s.params.pbufSize) : (s.withPayload bytes).payload = bytes := by
  have hn : (s.withPayload bytes).plen.toNat = bytes.length := toNat_ofNat_of_lt (by omega)
  refine List.ext_getElem (by rw [payload_length, hn]) fun k _ hk => ?_
  have hbyte : (s.writePbuf bytes).pbufByte k = bytes[k] := by
    rw [State.writePbuf_pbufByte, List.take_of_length_le hp, List.getElem?_eq_getElem hk,
      Option.getD_some]
  simp only [State.payload, List.getElem_map, List.getElem_range]
  exact hbyte

/-- Settles O56: PBUF is written from its start, and the payload is the first PLEN bytes there. -/
theorem payloadLoadTakesEffect : Obligations.PayloadLoadTakesEffect := by
  intro s bytes hb hl hp
  refine ⟨_, runSteps_ldpay hb hl hp, payload_withPayload s hl hp, fun a ha => ?_, rfl⟩
  exact s.writePbuf_readByte_other bytes a (by rwa [List.take_of_length_le hp])

end Sys2Proof.Machine

/-! PROOF. The forward cipher of 40_aes128.md: its round maps in terms of the columns and bytes of the
block, the S-box table as the affine map of the field inverse, the key expansion, and the cipher as ten
rounds, each of which is a bijection for its round key. -/

namespace Sys2Proof

/-! ### The field products (R123) -/

theorem xor_left_comm (a b c : Byte) : a ^^^ (b ^^^ c) = b ^^^ (a ^^^ c) := by ac_rfl

/-- A term that stands twice in an exclusive-or drops out; with commutativity and associativity this
decides every identity of exclusive-ors. -/
theorem xor_self_left (a b : Byte) : a ^^^ (a ^^^ b) = b := by
  rw [← BitVec.xor_assoc, BitVec.xor_self, BitVec.zero_xor]

/-- Doubling a byte is additive, the one fact about the field that MixColumns needs for its inverse. -/
theorem xtime_xor (a b : Byte) : xtime (a ^^^ b) = xtime a ^^^ xtime b := by
  unfold xtime
  rw [BitVec.shiftLeft_xor_distrib, BitVec.getLsbD_xor]
  cases a.getLsbD 7 <;> cases b.getLsbD 7 <;>
    simp [BitVec.xor_assoc, BitVec.xor_comm, xor_left_comm]

theorem gfMul_one (a : Byte) : gfMul a 1 = a := by simp [gfMul]

theorem gfMul_two (a : Byte) : gfMul a 2 = xtime a := by simp [gfMul]

theorem gfMul_three (a : Byte) : gfMul a 3 = mul3 a := by simp [gfMul, mul3, BitVec.xor_comm]

theorem xtime_eq_ite (a : Byte) :
    xtime a = if a.getLsbD 7 then (a <<< 1) ^^^ 0x1B else a <<< 1 := by
  unfold xtime
  split <;> simp

/-! ### Columns and bytes of a block (R122) -/

theorem Block.get_column (s : Block) (c : Nat) {r : Nat} (hr : r < 4) :
    s.get (r + 4 * c) = (s.col c).get r := by
  unfold Block.get
  rw [show (r + 4 * c) / 4 = c by omega, show (r + 4 * c) % 4 = r by omega]

theorem Quad.get_map (f : Byte → Byte) (q : Quad) (k : Nat) : (q.map f).get k = f (q.get k) :=
  match k with
  | 0 | 1 | 2 | _ + 3 => rfl

theorem Quad.get_xor (x y : Quad) (k : Nat) : (x.xor y).get k = x.get k ^^^ y.get k :=
  match k with
  | 0 | 1 | 2 | _ + 3 => rfl

theorem Block.col_xor (x y : Block) (c : Nat) : (x.xor y).col c = (x.col c).xor (y.col c) :=
  match c with
  | 0 | 1 | 2 | _ + 3 => rfl

theorem Block.get_xor (x y : Block) (k : Nat) : (x.xor y).get k = x.get k ^^^ y.get k := by
  simp only [Block.get, Block.col_xor, Quad.get_xor]

/-- The same map on each of the four columns: SubBytes and MixColumns have this form. -/
def Block.mapColumns (f : Quad → Quad) (s : Block) : Block := ⟨f s.c0, f s.c1, f s.c2, f s.c3⟩

theorem Block.col_mapColumns (f : Quad → Quad) (s : Block) (c : Nat) :
    (s.mapColumns f).col c = f (s.col c) :=
  match c with
  | 0 | 1 | 2 | _ + 3 => rfl

theorem subBytes_eq_mapColumns : subBytes = Block.mapColumns (Quad.map sbox) := rfl

theorem mixColumns_eq_mapColumns : mixColumns = Block.mapColumns mixColumn := rfl

theorem subBytes_get (s : Block) (k : Nat) : (subBytes s).get k = sbox (s.get k) := by
  simp only [subBytes_eq_mapColumns, Block.get, Block.col_mapColumns, Quad.get_map]

theorem mixColumns_get (s : Block) (c : Nat) {r : Nat} (hr : r < 4) :
    (mixColumns s).get (r + 4 * c) = (mixColumn (s.col c)).get r := by
  rw [Block.get_column _ _ hr, mixColumns_eq_mapColumns, Block.col_mapColumns]

theorem shiftRows_col_get (s : Block) {r c : Nat} (hr : r < 4) (hc : c < 4) :
    ((shiftRows s).col c).get r = (s.col ((c + r) % 4)).get r := by
  interval_cases c <;> interval_cases r <;> rfl

/-- Settles O9: both maps read column by column, with the products of R123 as doublings. -/
theorem rowsRotateAndColumnsMix : Obligations.RowsRotateAndColumnsMix := by
  refine ⟨fun a => ⟨gfMul_one a, ?double, ?triple⟩, ?rows, ?columns⟩
  case double => rw [gfMul_two, xtime_eq_ite]
  case triple => rw [gfMul_three, gfMul_two, mul3]
  case rows =>
    intro s r c hr hc
    rw [Block.get_column _ _ hr, Block.get_column _ _ hr, shiftRows_col_get s hr hc]
  case columns =>
    intro s c _
    have entry (r : Nat) (hr : r < 4) : s.get (4 * c + r) = (s.col c).get r := by
      rw [Nat.add_comm, Block.get_column s c hr]
    have mixed (r : Nat) (hr : r < 4) :
        (mixColumns s).get (4 * c + r) = (mixColumn (s.col c)).get r := by
      rw [Nat.add_comm, mixColumns_get s c hr]
    simp only [gfMul_two, gfMul_three, entry 1, entry 2, entry 3, mixed 1, mixed 2, mixed 3,
      show s.get (4 * c) = _ from entry 0 (by decide),
      show (mixColumns s).get (4 * c) = _ from mixed 0 (by decide), Nat.reduceLT]
    exact ⟨rfl, rfl, rfl, rfl⟩

/-! ### The S-box (R124)

The table is the definition of SBOX, so what R124 says of its entries is checked entry by entry, once
for the inverses and once for the permutation; the rest follows. -/

/-- The affine map of R124. -/
def sboxAffine (b : Byte) : Byte :=
  b ^^^ b.rotateLeft 1 ^^^ b.rotateLeft 2 ^^^ b.rotateLeft 3 ^^^ b.rotateLeft 4 ^^^ 0x63

/-- The affine map that undoes `sboxAffine`. -/
def sboxAffineInv (y : Byte) : Byte :=
  y.rotateLeft 1 ^^^ y.rotateLeft 3 ^^^ y.rotateLeft 6 ^^^ 0x05

/-- The inverse in the field of R123, as the table gives it: the affine map undone. -/
def fieldInv (a : Byte) : Byte := sboxAffineInv (sbox a)

theorem sboxAffine_sboxAffineInv : ∀ y : Byte, sboxAffine (sboxAffineInv y) = y := by decide

/-- Each entry of the table holds an inverse of R123. -/
theorem gfMul_fieldInv : ∀ a : Byte, a ≠ 0 → gfMul a (fieldInv a) = 1 := by decide

theorem fieldInv_zero : fieldInv 0 = 0 := by decide

/-- Each byte is the inverse of its inverse. -/
theorem fieldInv_involutive : Function.Involutive fieldInv := by
  unfold Function.Involutive
  decide

/-- The table has no repeated entry, for the inverse read off it is its own inverse. -/
theorem sbox_bijective : Function.Bijective sbox :=
  Function.Injective.bijective_of_finite (.of_comp (f := sboxAffineInv) fieldInv_involutive.injective)

/-- Settles O8: the inverse of each byte is the table's entry with the affine map undone. -/
theorem sBoxIsTheAffineInverse : Obligations.SBoxIsTheAffineInverse := by
  refine ⟨fun a => ⟨fieldInv a, ?zero, gfMul_fieldInv a, ?affine⟩, sbox_bijective⟩
  case zero => rintro rfl; exact fieldInv_zero
  case affine => exact (sboxAffine_sboxAffineInv (sbox a)).symm

/-! ### The key expansion (R129, R130) -/

theorem roundKeysFrom_length (rcs : List Byte) (k : Block) :
    (roundKeysFrom rcs k).length = rcs.length + 1 := by
  induction rcs generalizing k with
  | nil => rfl
  | cons rc rest ih => exact congrArg (· + 1) (ih _)

theorem roundKeysFrom_zero (rcs : List Byte) (k : Block) : (roundKeysFrom rcs k)[0]? = some k := by
  cases rcs <;> rfl

/-- Each round constant makes a round key from the one before it. -/
theorem roundKeysFrom_succ {rcs : List Byte} {k : Block} {r : Nat} {rc : Byte}
    (h : rcs[r]? = some rc) : ∃ p, (roundKeysFrom rcs k)[r]? = some p ∧
      (roundKeysFrom rcs k)[r + 1]? = some (nextRoundKey rc p) := by
  induction rcs generalizing k r with
  | nil => cases h
  | cons c rest ih =>
    cases r with
    | zero =>
      obtain rfl : c = rc := Option.some.inj h
      exact ⟨k, rfl, roundKeysFrom_zero rest _⟩
    | succ r => exact ih h

/-- The first word of a round key: the first word before it with the last one rotated, substituted
and combined with the round constant. -/
theorem nextRoundKey_col_zero (rc : Byte) (p : Block) :
    (nextRoundKey rc p).col 0 = (p.col 0).xor
      ⟨sbox (p.col 3).b1 ^^^ rc, sbox (p.col 3).b2, sbox (p.col 3).b3, sbox (p.col 3).b0⟩ := rfl

theorem nextRoundKey_col_succ (rc : Byte) (p : Block) {c : Nat} (hc : c < 3) :
    (nextRoundKey rc p).col (c + 1) = (p.col (c + 1)).xor ((nextRoundKey rc p).col c) := by
  interval_cases c <;> rfl

theorem rcon_doubles : rcon.IsChain fun x y => y = gfMul x 2 := by decide

/-- Settles O10: word `c` of round key `r + 1` comes from the words `c` of round key `r` and the word
before it, the last of round key `r` when `c` is 0. -/
theorem keyExpansionFollowsItsRecurrence : Obligations.KeyExpansionFollowsItsRecurrence := by
  refine ⟨?doubling, fun k => ⟨roundKeysFrom_length rcon k, roundKeysFrom_zero rcon k, ?words⟩⟩
  case doubling =>
    intro j x y hx hy
    obtain ⟨_, rfl⟩ := List.getElem?_eq_some_iff.mp hx
    obtain ⟨hj, rfl⟩ := List.getElem?_eq_some_iff.mp hy
    exact List.isChain_iff_getElem.mp rcon_doubles j hj
  case words =>
    intro i h4 h44
    obtain ⟨r, c, hr, hc, rfl⟩ : ∃ r c, r < 10 ∧ c < 4 ∧ i = 4 * (r + 1) + c :=
      ⟨i / 4 - 1, i % 4, by omega, by omega, by omega⟩
    have hrc : rcon[r]? = some rcon[r] := List.getElem?_eq_getElem hr
    obtain ⟨p, hp, hn⟩ := roundKeysFrom_succ (k := k) hrc
    rw [show (4 * (r + 1) + c) / 4 = r + 1 by omega, show (4 * (r + 1) + c - 4) / 4 = r by omega,
      show (4 * (r + 1) + c) % 4 = c by omega, show (4 * (r + 1) + c - 4) % 4 = c by omega]
    cases c with
    | zero =>
      rw [show (4 * (r + 1) + 0 - 1) / 4 = r by omega, show (4 * (r + 1) + 0 - 1) % 4 = 3 by omega]
      exact ⟨_, p, p, _, hn, hp, hp, hrc, nextRoundKey_col_zero _ p⟩
    | succ c =>
      rw [show (4 * (r + 1) + (c + 1) - 1) / 4 = r + 1 by omega,
        show (4 * (r + 1) + (c + 1) - 1) % 4 = c by omega]
      exact ⟨_, _, p, _, hn, hn, hp, hrc, nextRoundKey_col_succ _ p (by omega)⟩

/-! ### The rounds (R131, R132) -/

/-- A round with MixColumns. -/
def fullRound (s rk : Block) : Block := addRoundKey (mixColumns (shiftRows (subBytes s))) rk

/-- The last round, without MixColumns. -/
def lastRound (s rk : Block) : Block := addRoundKey (shiftRows (subBytes s)) rk

theorem cipherRounds_concat (rks : List Block) (last s : Block) :
    cipherRounds (rks ++ [last]) s = lastRound (rks.foldl fullRound s) last := by
  induction rks generalizing s with
  | nil => rfl
  | cons rk rest ih =>
    calc cipherRounds (rk :: (rest ++ [last])) s
        = cipherRounds (rest ++ [last]) (fullRound s rk) := by cases rest <;> rfl
      _ = lastRound ((rk :: rest).foldl fullRound s) last := ih _

theorem aes_of_roundKeys {k rk0 : Block} {rest : List Block} (h : roundKeys k = rk0 :: rest)
    (x : Block) : aes k x = cipherRounds rest (addRoundKey x rk0) := by
  rw [aes, h]

/-- Round key `r` for `r` up to 10. -/
def roundKey (k : Block) (r : Nat) : Block := (roundKeys k).getD r k

theorem roundKeys_getElem? (k : Block) {r : Nat} (hr : r ≤ 10) :
    (roundKeys k)[r]? = some (roundKey k r) := by
  have hlen : r < (roundKeys k).length := by
    rw [roundKeys, roundKeysFrom_length]
    exact Nat.lt_succ_of_le hr
  rw [roundKey, List.getD_eq_getElem _ _ hlen, List.getElem?_eq_getElem hlen]

theorem roundKeys_eq_map (k : Block) :
    roundKeys k =
      roundKey k 0 :: ([1, 2, 3, 4, 5, 6, 7, 8, 9].map (roundKey k) ++ [roundKey k 10]) := rfl

/-- Settles O60: the list of eleven round keys is its first, nine for the full rounds, and its last. -/
theorem cipherIsItsTenRounds : Obligations.CipherIsItsTenRounds := by
  refine ⟨fun s rk i _ => ⟨subBytes_get s i, Block.get_xor s rk i⟩, fun k x => ?_⟩
  refine ⟨roundKey k, fun r hr => roundKeys_getElem? k hr, ?_⟩
  rw [aes_of_roundKeys (roundKeys_eq_map k), cipherRounds_concat, List.foldl_map]
  rfl

/-! ### Every round is a bijection (R133) -/

section
open Function

theorem Quad.map_bijective {f : Byte → Byte} (hf : Bijective f) : Bijective (Quad.map f) := by
  obtain ⟨g, hl, hr⟩ := bijective_iff_has_inverse.mp hf
  exact bijective_iff_has_inverse.mpr
    ⟨Quad.map g, fun q => by simp only [Quad.map, hl _], fun q => by simp only [Quad.map, hr _]⟩

theorem Block.mapColumns_bijective {f : Quad → Quad} (hf : Bijective f) :
    Bijective (Block.mapColumns f) := by
  obtain ⟨g, hl, hr⟩ := bijective_iff_has_inverse.mp hf
  exact bijective_iff_has_inverse.mpr ⟨Block.mapColumns g,
    fun s => by simp only [Block.mapColumns, hl _], fun s => by simp only [Block.mapColumns, hr _]⟩

theorem subBytes_bijective : Bijective subBytes :=
  Block.mapColumns_bijective (Quad.map_bijective sbox_bijective)

/-- Row `r` is rotated by `r` of four positions, so four rotations are none. -/
theorem shiftRows_bijective : Bijective shiftRows :=
  bijective_iff_has_inverse.mpr ⟨shiftRows^[3], fun _ => rfl, fun _ => rfl⟩

/-- One row of the matrix of R127, applied to a column read from that row on. -/
def mixRow (a b c d : Byte) : Byte := xtime a ^^^ mul3 b ^^^ c ^^^ d

theorem mixColumn_eq_mixRow (q : Quad) :
    mixColumn q = ⟨mixRow q.b0 q.b1 q.b2 q.b3, mixRow q.b1 q.b2 q.b3 q.b0,
      mixRow q.b2 q.b3 q.b0 q.b1, mixRow q.b3 q.b0 q.b1 q.b2⟩ := by
  unfold mixColumn mixRow
  congr 1 <;> ac_rfl

/-- A row is its byte, the sum of the column, and the double of the sum with the next byte. -/
theorem mixRow_eq (a b c d : Byte) :
    mixRow a b c d = a ^^^ (a ^^^ b ^^^ c ^^^ d) ^^^ xtime (a ^^^ b) := by
  simp only [mixRow, mul3, xtime_xor, BitVec.xor_assoc, xor_self_left]
  ac_rfl

/-- Two neighbouring rows differ by their bytes and the double of the sum of the opposite bytes. -/
theorem mixRow_xor_mixRow (a b c d : Byte) :
    mixRow a b c d ^^^ mixRow b c d a = a ^^^ b ^^^ xtime (a ^^^ c) := by
  simp only [mixRow_eq, xtime_xor, BitVec.xor_assoc, BitVec.xor_comm, xor_left_comm, xor_self_left]

/-- The matrix of R127 applied twice: each byte with four times the sum of its own and the opposite
byte of the column. -/
theorem mixRow_mixRow (a b c d : Byte) :
    mixRow (mixRow a b c d) (mixRow b c d a) (mixRow c d a b) (mixRow d a b c) =
      a ^^^ xtime (xtime (a ^^^ c)) := by
  have sum : mixRow a b c d ^^^ mixRow b c d a ^^^ mixRow c d a b ^^^ mixRow d a b c =
      a ^^^ b ^^^ c ^^^ d := by
    rw [BitVec.xor_assoc _ (mixRow c d a b), mixRow_xor_mixRow, mixRow_xor_mixRow,
      BitVec.xor_comm c a]
    simp only [BitVec.xor_assoc, xor_left_comm, BitVec.xor_self, BitVec.xor_zero]
  rw [mixRow_eq (mixRow a b c d), sum, mixRow_xor_mixRow, mixRow_eq, xtime_xor (a ^^^ b)]
  simp only [BitVec.xor_assoc, BitVec.xor_comm, xor_left_comm, xor_self_left]

/-- The square of MixColumns on one column. -/
def mixColumnSquared (q : Quad) : Quad :=
  let even := xtime (xtime (q.b0 ^^^ q.b2))
  let odd := xtime (xtime (q.b1 ^^^ q.b3))
  ⟨q.b0 ^^^ even, q.b1 ^^^ odd, q.b2 ^^^ even, q.b3 ^^^ odd⟩

theorem mixColumn_mixColumn (q : Quad) : mixColumn (mixColumn q) = mixColumnSquared q := by
  simp only [mixColumn_eq_mixRow, mixRow_mixRow, mixColumnSquared, BitVec.xor_comm q.b2 q.b0,
    BitVec.xor_comm q.b3 q.b1]

/-- The sum of opposite bytes is kept, so what the first turn adds the second takes away. -/
theorem mixColumnSquared_involutive : Involutive mixColumnSquared := by
  intro q
  have kept (x y z : Byte) : (x ^^^ z) ^^^ (y ^^^ z) = x ^^^ y := by
    rw [BitVec.xor_comm y z, BitVec.xor_assoc, xor_self_left]
  simp only [mixColumnSquared, kept, BitVec.xor_assoc, BitVec.xor_self, BitVec.xor_zero]

theorem mixColumn_bijective : Bijective mixColumn := by
  have hsq : Bijective (mixColumn ∘ mixColumn) := by
    rw [show mixColumn ∘ mixColumn = mixColumnSquared from funext mixColumn_mixColumn]
    exact mixColumnSquared_involutive.bijective
  exact ⟨hsq.injective.of_comp, hsq.surjective.of_comp⟩

theorem mixColumns_bijective : Bijective mixColumns :=
  Block.mapColumns_bijective mixColumn_bijective

theorem addRoundKey_bijective (rk : Block) : Bijective fun s => addRoundKey s rk := by
  refine Involutive.bijective fun s => ?_
  simp only [addRoundKey, Block.xor, Quad.xor, BitVec.xor_assoc, BitVec.xor_self, BitVec.xor_zero]

theorem lastRound_bijective (rk : Block) : Bijective fun s => lastRound s rk :=
  (addRoundKey_bijective rk).comp (shiftRows_bijective.comp subBytes_bijective)

theorem fullRound_bijective (rk : Block) : Bijective fun s => fullRound s rk :=
  (addRoundKey_bijective rk).comp
    (mixColumns_bijective.comp (shiftRows_bijective.comp subBytes_bijective))

theorem cipherRounds_bijective : ∀ rks : List Block, Bijective (cipherRounds rks)
  | [] => bijective_id
  | [rk] => lastRound_bijective rk
  | rk :: rk' :: rest => (cipherRounds_bijective (rk' :: rest)).comp (fullRound_bijective rk)

end

/-- Settles O11: the first key addition and the rounds after it are bijections. -/
theorem cipherIsABijection : Obligations.CipherIsABijection := by
  intro k
  have haes : aes k = cipherRounds _ ∘ fun x => addRoundKey x _ :=
    funext (aes_of_roundKeys (roundKeys_eq_map k))
  rw [haes]
  exact (cipherRounds_bijective _).comp (addRoundKey_bijective _)

end Sys2Proof

/-! PROOF. The keystream generator of 41_keystream.md: the bytes of the input block A_i, the
keystream and the payload transform byte by byte, and what KSBLK and CRYPT do with them. -/

namespace Sys2Proof.Machine

/-! ### The input block A_i (R151) -/

/-- The frame counter widened to 32 bits has its two bytes, and zeros above them. -/
theorem le32_zeroExtend (v : BitVec 16) :
    le32 (v.zeroExtend 32) = [v.extractLsb' 0 8, v.extractLsb' 8 8, 0, 0] := by
  have low (k : Nat) (hk : k < 2) : byteAt (v.zeroExtend 32) k = v.extractLsb' (8 * k) 8 := by
    ext i hi
    simp [byteAt, show 8 * k + i < 32 by omega]
  have high (k : Nat) (hk : 2 ≤ k) : byteAt (v.zeroExtend 32) k = 0 := by
    ext i hi
    simp [byteAt, BitVec.getLsbD_of_ge v (8 * k + i) (by omega)]
  simp [le32, low, high]

theorem nonceBytes_eq (addr : BitVec 32) (fcnt : BitVec 16) :
    nonceBytes addr fcnt = le32 addr ++ [fcnt.extractLsb' 0 8, fcnt.extractLsb' 8 8, 0, 0] := by
  rw [nonceBytes, le32_zeroExtend]

/-- The last byte of A_i: the block index above CTR_BASE, modulo 256. -/
def counterByte (p : Params) (i : Nat) : Byte := BitVec.ofNat 8 (i + p.ctrBase)

theorem counterByte_eq_mod (p : Params) (i : Nat) :
    counterByte p i = BitVec.ofNat 8 ((i + p.ctrBase) % 256) :=
  BitVec.eq_of_toNat_eq (by simp [counterByte])

theorem counterByte_eq_iff (p : Params) (i j : Nat) :
    counterByte p i = counterByte p j ↔ i % 256 = j % 256 := by
  rw [← BitVec.toNat_inj, counterByte, counterByte, BitVec.toNat_ofNat, BitVec.toNat_ofNat]
  omega

theorem blockA_toList (p : Params) (dir : Bool) (addr : BitVec 32) (fcnt : BitVec 16) (i : Nat) :
    (blockA p dir addr fcnt i).toList =
      [p.tagA, 0, 0, 0, 0, dirByte dir] ++ nonceBytes addr fcnt ++ [0, counterByte p i] := rfl

/-- Settles O12: the block is its sixteen bytes, with the counter and the index written out. -/
theorem keystreamInputBlockLayout : Obligations.KeystreamInputBlockLayout := by
  refine ⟨fun p dir addr fcnt i => ?_, rfl, rfl⟩
  rw [blockA_toList, nonceBytes_eq, counterByte_eq_mod]
  rfl

/-- Two input blocks under one direction, address and counter differ in the last byte only. -/
theorem blockA_eq_iff (p : Params) (dir : Bool) (addr : BitVec 32) (fcnt : BitVec 16) (i j : Nat) :
    blockA p dir addr fcnt i = blockA p dir addr fcnt j ↔ counterByte p i = counterByte p j := by
  constructor
  · exact fun h => congrArg (Block.get · 15) h
  · intro h
    rw [← Block.ofList_toList (blockA p dir addr fcnt i), blockA_toList, h]
    rfl

/-- Settles O18: the cipher is injective, so blocks are equal when their counter bytes are. -/
theorem keystreamBlocksRepeatEvery256 : Obligations.KeystreamBlocksRepeatEvery256 :=
  fun p key dir addr fcnt i j => calc
    keystreamBlock p key dir addr fcnt i = keystreamBlock p key dir addr fcnt j
      ↔ blockA p dir addr fcnt i = blockA p dir addr fcnt j := (cipherIsABijection key).1.eq_iff
    _ ↔ counterByte p i = counterByte p j := blockA_eq_iff p dir addr fcnt i j
    _ ↔ i % 256 = j % 256 := counterByte_eq_iff p i j

/-! ### The keystream and the transform, byte by byte (R150, R154) -/

/-- Byte `j` of the keystream S_0, S_1, and so on. -/
def keystreamByte (p : Params) (key : Block) (dir : Bool) (addr : BitVec 32) (fcnt : BitVec 16)
    (j : Nat) : Byte :=
  (aes key (blockA p dir addr fcnt (j / 16))).get (j % 16)

section
variable (p : Params) (key : Block) (dir : Bool) (addr : BitVec 32) (fcnt : BitVec 16)

theorem keystream_getElem? {n j : Nat} (hj : j < 16 * n) :
    (keystream p key dir addr fcnt n)[j]? = some (keystreamByte p key dir addr fcnt j) := by
  induction n with
  | zero => omega
  | succ n ih =>
    rw [keystream_succ]
    by_cases h : j < 16 * n
    · rw [List.getElem?_append_left (by rwa [keystream_length]), ih h]
    · rw [List.getElem?_append_right (by rw [keystream_length]; omega), keystream_length,
        Block.toList_getElem? _ _ (by omega), keystreamBlock, keystreamByte,
        show j / 16 = n by omega, show j % 16 = j - 16 * n by omega]

/-- The keystream is as long as the payload, so the transform drops no byte. -/
theorem cryptBytes_getElem? (plain : List Byte) (j : Nat) :
    (cryptBytes p key dir addr fcnt plain)[j]? =
      plain[j]?.map (· ^^^ keystreamByte p key dir addr fcnt j) := by
  rw [cryptBytes, List.getElem?_zipWith]
  by_cases hj : j < plain.length
  · rw [List.getElem?_eq_getElem hj, keystream_getElem? _ _ _ _ _ (by omega)]
    rfl
  · rw [List.getElem?_eq_none (Nat.le_of_not_lt hj)]
    rfl

end

/-- Settles O14. -/
theorem transformXorsTheKeystream : Obligations.TransformXorsTheKeystream := by
  refine fun p key dir addr fcnt plain => ⟨cryptBytes_length .., fun j b hb => ?_⟩
  rw [cryptBytes_getElem?, hb]
  rfl

/-- Settles O15: each byte meets the same keystream byte twice. -/
theorem transformIsAnInvolution : Obligations.TransformIsAnInvolution := by
  refine fun p key dir addr fcnt plain => List.ext_getElem? fun j => ?_
  rw [cryptBytes_getElem?, cryptBytes_getElem?, Option.map_map]
  cases plain[j]? with
  | none => rfl
  | some b => exact congrArg some (xor_cancel_right b _)

/-! ### KSBLK (R153) -/

theorem exec_ksblk_of_no_session {s : State} (hs : s.sess = false) :
    exec .ksblk s = .next (s.endWith 7) := if_neg (by simp [hs])

theorem exec_ksblk_of_session {s : State} (hs : s.sess = true) :
    exec .ksblk s = .next ({ s with
      ks := keystreamBlock s.params s.appskey s.dir s.devaddr s.fcnt s.blkidx.toNat }.endWith 0) :=
  if_pos hs

/-- Settles O13. -/
theorem ksblkMakesOneKeystreamBlock : Obligations.KsblkMakesOneKeystreamBlock :=
  ⟨rfl, fun _ => ⟨exec_ksblk_of_no_session, exec_ksblk_of_session⟩⟩

/-! ### CRYPT (R155) -/

/-- The state after CRYPT's write to PBUF. -/
def State.cryptPbuf (s : State) : State :=
  s.writePbuf (cryptBytes s.params s.appskey s.dir s.devaddr s.fcnt s.payload)

theorem exec_crypt_of_no_session {s : State} (hs : s.sess = false) :
    exec .crypt s = .next (s.endWith 7) := if_neg (by simp [hs])

theorem exec_crypt_of_session {s : State} (hs : s.sess = true) :
    exec .crypt s = .next (s.cryptPbuf.endWith 0) := if_pos hs

/-- CRYPT writes ERR and memory and nothing else. -/
theorem State.cryptPbuf_frame (s : State) (m : Memory) :
    (s.cryptPbuf.endWith 0).setMem m = (s.setMem m).endWith 0 := rfl

/-- The number of bytes of PBUF that CRYPT transforms: PLEN, as far as PBUF reaches. -/
def State.cryptLength (s : State) : Nat := min s.params.pbufSize s.plen.toNat

/-- What CRYPT adds to the byte at an address: the keystream byte inside the payload, else 0. -/
def State.cryptMask (s : State) (a : Nat) : Byte :=
  if pbufBase ≤ a ∧ a < pbufBase + s.cryptLength then
    keystreamByte s.params s.appskey s.dir s.devaddr s.fcnt (a - pbufBase)
  else 0#8

theorem State.cryptMask_payload (s : State) {j : Nat} (hj : j < s.cryptLength) :
    s.cryptMask (pbufBase + j) =
      keystreamByte s.params s.appskey s.dir s.devaddr s.fcnt j := by
  rw [State.cryptMask, if_pos (by omega), Nat.add_sub_cancel_left]

theorem State.cryptMask_outside (s : State) {a : Nat}
    (ha : a < pbufBase ∨ pbufBase + s.cryptLength ≤ a) : s.cryptMask a = 0#8 :=
  if_neg (by omega)

theorem payload_getElem? (s : State) {j : Nat} (hj : j < s.plen.toNat) :
    s.payload[j]? = some (s.pbufByte j) := by
  simp [State.payload, hj]

theorem State.cryptPbuf_pbufByte (s : State) {j : Nat} (hj : j < s.cryptLength) :
    s.cryptPbuf.pbufByte j =
      s.pbufByte j ^^^ keystreamByte s.params s.appskey s.dir s.devaddr s.fcnt j := by
  obtain ⟨hsize, hplen⟩ := Nat.lt_min.1 hj
  rw [State.cryptPbuf, State.writePbuf_pbufByte, List.getElem?_take_of_lt hsize,
    cryptBytes_getElem?, payload_getElem? s hplen]
  rfl

/-- CRYPT adds its mask to every byte of both buffers. -/
theorem State.cryptPbuf_readByte (s : State) (a : Nat) :
    s.cryptPbuf.readByte a = s.readByte a ^^^ s.cryptMask a := by
  by_cases ha : pbufBase ≤ a ∧ a < pbufBase + s.cryptLength
  · obtain ⟨j, rfl⟩ := Nat.exists_eq_add_of_le ha.1
    have hj : j < s.cryptLength := by omega
    rw [s.cryptMask_payload hj]
    exact s.cryptPbuf_pbufByte hj
  · have hout : a < pbufBase ∨ pbufBase + s.cryptLength ≤ a := by omega
    rw [s.cryptMask_outside hout, BitVec.xor_zero]
    refine s.writePbuf_readByte_other _ a ?_
    rwa [List.length_take, cryptBytes_length, payload_length]

/-- Settles O16: PBUF has room for the payload, so the mask covers exactly PLEN bytes. -/
theorem cryptTransformsThePayloadInPlace : Obligations.CryptTransformsThePayloadInPlace := by
  refine ⟨rfl, fun s => ⟨exec_crypt_of_no_session, fun hs hfits => ?_⟩⟩
  have hlen : s.cryptLength = s.plen.toNat := Nat.min_eq_right hfits
  refine ⟨_, exec_crypt_of_session hs, fun j hj => ?payload, fun a ha => ?others,
    s.cryptPbuf_frame s.mem⟩
  case payload => exact s.cryptPbuf_pbufByte (hlen ▸ hj)
  case others =>
    rw [State.endWith_readByte, State.cryptPbuf_readByte, s.cryptMask_outside (hlen ▸ ha),
      BitVec.xor_zero]

/-- CRYPT writes ERR and memory, and its mask depends on neither. -/
theorem State.cryptMask_after_crypt (s : State) (c : Byte) (a : Nat) :
    (s.cryptPbuf.endWith c).cryptMask a = s.cryptMask a := rfl

/-- Settles O17: the same mask is added twice. -/
theorem cryptTwiceRestoresTheBuffers : Obligations.CryptTwiceRestoresTheBuffers := by
  intro s hs
  have hs' : (s.cryptPbuf.endWith 0).sess = true := hs
  refine ⟨_, _, exec_crypt_of_session hs, exec_crypt_of_session hs', fun a => ?bytes, ?frame⟩
  case frame =>
    exact (State.cryptPbuf_frame _ s.mem).trans
      (congrArg (·.endWith 0) (s.cryptPbuf_frame s.mem))
  case bytes =>
    calc ((s.cryptPbuf.endWith 0).cryptPbuf.endWith 0).readByte a
        = (s.cryptPbuf.endWith 0).readByte a ^^^ s.cryptMask a := by
          rw [State.endWith_readByte, State.cryptPbuf_readByte, State.cryptMask_after_crypt]
      _ = s.readByte a ^^^ s.cryptMask a ^^^ s.cryptMask a := by
          rw [State.endWith_readByte, State.cryptPbuf_readByte]
      _ = s.readByte a := xor_cancel_right _ _

end Sys2Proof.Machine

/-! PROOF. The integrity-code generator of 42_integrity.md: the subkeys by doubling, CMAC along the
blocks of a message, the bytes of B0, and what MICGEN does with them. -/

namespace Sys2Proof.Machine

/-! ### Doubling and the subkeys (R177) -/

theorem numberBlock_get (w : BitVec 128) {k : Nat} (hk : k < 16) :
    (numberBlock w).get k = byteAt w (15 - k) := by
  interval_cases k <;> rfl

/-- A block is the block of its number. -/
theorem numberBlock_blockNumber (v : Block) : numberBlock (blockNumber v) = v := by
  simp [numberBlock, blockNumber, byteAt_append_zero, byteAt_append_succ, byteAt_byte]

/-- Byte 0 of a block is the most significant byte of its number. -/
theorem byteAt_blockNumber (v : Block) {k : Nat} (hk : k < 16) :
    byteAt (blockNumber v) (15 - k) = v.get k := by
  rw [← numberBlock_get _ hk, numberBlock_blockNumber]

theorem byteAt_shiftLeft_one_zero {n : Nat} (w : BitVec n) (hn : 8 ≤ n) :
    byteAt (w <<< 1) 0 = byteAt w 0 <<< 1 := by
  ext i hi
  simp only [byteAt, BitVec.getElem_extractLsb', BitVec.getLsbD_shiftLeft, BitVec.getElem_shiftLeft]
  cases i with
  | zero => simp
  | succ i => simp [show i + 1 < n by omega]

/-- The bit shifted into a byte above byte 0 is the top bit of the byte below. -/
theorem byteAt_shiftLeft_one_succ {n : Nat} (w : BitVec n) {j : Nat} (hn : 8 * (j + 2) ≤ n) :
    byteAt (w <<< 1) (j + 1) = (byteAt w (j + 1) <<< 1) ||| (byteAt w j >>> 7) := by
  ext i hi
  simp only [byteAt, BitVec.getElem_extractLsb', BitVec.getLsbD_shiftLeft, BitVec.getElem_or,
    BitVec.getElem_shiftLeft, BitVec.getElem_ushiftRight, BitVec.getLsbD_extractLsb']
  cases i with
  | zero => simp [show 8 * (j + 1) < n by omega, show 8 * (j + 1) - 1 = 8 * j + 7 by omega]
  | succ i => simp [show 8 * (j + 1) + (i + 1) < n by omega, show ¬ 7 + (i + 1) < 8 by omega]

/-- The bit shifted out is the top bit of byte 0. -/
theorem blockNumber_topBit (v : Block) : (blockNumber v).getLsbD 127 = (v.get 0).getLsbD 7 := by
  rw [← byteAt_blockNumber v (by decide : 0 < 16)]
  simp [byteAt]

/-- The number of a block shifted left by one, as a block. -/
def shiftedBlock (v : Block) : Block := numberBlock (blockNumber v <<< 1)

theorem double_eq_ite (v : Block) :
    double v = if (v.get 0).getLsbD 7 then
      (shiftedBlock v).set 15 ((shiftedBlock v).get 15 ^^^ 0x87) else shiftedBlock v := by
  rw [← blockNumber_topBit]
  rfl

theorem shiftedBlock_get (v : Block) {k : Nat} (hk : k < 15) :
    (shiftedBlock v).get k = (v.get k <<< 1) ||| (v.get (k + 1) >>> 7) := by
  rw [shiftedBlock, numberBlock_get _ (by omega), ← byteAt_blockNumber v (by omega : k < 16),
    ← byteAt_blockNumber v (by omega : k + 1 < 16), show 15 - k = 15 - (k + 1) + 1 by omega]
  exact byteAt_shiftLeft_one_succ _ (by omega)

theorem shiftedBlock_get_last (v : Block) : (shiftedBlock v).get 15 = v.get 15 <<< 1 := by
  rw [shiftedBlock, numberBlock_get _ (by decide), ← byteAt_blockNumber v (by decide : 15 < 16)]
  exact byteAt_shiftLeft_one_zero _ (by decide)

/-- The constant 0x87 meets the last byte only. -/
theorem double_get (v : Block) {k : Nat} (hk : k < 15) :
    (double v).get k = (shiftedBlock v).get k := by
  rw [double_eq_ite]
  split_ifs
  · exact Block.get_set_other _ _ _ _ (by decide) (by omega) (by omega)
  · rfl

theorem double_get_last (v : Block) :
    (double v).get 15 =
      if (v.get 0).getLsbD 7 then (v.get 15 <<< 1) ^^^ 0x87 else v.get 15 <<< 1 := by
  rw [double_eq_ite, ← shiftedBlock_get_last]
  split_ifs
  · exact Block.get_set_same _ _ _ (by decide)
  · rfl

/-- Settles O19: the number shifted by one, byte by byte, with 0x87 in the last byte. -/
theorem subkeysAreDoublings : Obligations.SubkeysAreDoublings :=
  ⟨fun v => ⟨fun _ hk => (double_get v hk).trans (shiftedBlock_get v hk), double_get_last v⟩,
    fun _ => ⟨rfl, rfl⟩⟩

/-! ### CMAC along the blocks of a message (R175, R176) -/

/-- One step of the chain: the chaining value exclusive-or the next block, through the cipher. -/
def cmacStep (k x b : Block) : Block := aes k (x.xor b)

/-- Block `j` of a message. -/
def messageBlock (msg : List Byte) (j : Nat) : Block := Block.ofList ((msg.drop (16 * j)).take 16)

theorem cmacChain_eq_foldl (k : Block) (msg : List Byte) :
    cmacChain k msg =
      ((List.range (cmacBlocks msg.length - 1)).map (messageBlock msg)).foldl (cmacStep k)
        Block.zero := by
  rw [List.foldl_map]
  rfl

/-- The message cut into the full blocks `bs` and the last part `z`. -/
def cutMessage (bs : List Block) (z : List Byte) : List Byte := bs.flatMap Block.toList ++ z

theorem cutMessage_cons (b : Block) (bs : List Block) (z : List Byte) :
    cutMessage (b :: bs) z = b.toList ++ cutMessage bs z := by
  simp [cutMessage]

theorem flatMap_toList_length (bs : List Block) :
    (bs.flatMap Block.toList).length = 16 * bs.length := by
  simp [List.length_flatMap, Nat.mul_comm]

theorem cutMessage_length (bs : List Block) (z : List Byte) :
    (cutMessage bs z).length = 16 * bs.length + z.length := by
  rw [cutMessage, List.length_append, flatMap_toList_length]

/-- Behind the full blocks stands the last part. -/
theorem cutMessage_drop (bs : List Block) (z : List Byte) :
    (cutMessage bs z).drop (16 * bs.length) = z :=
  List.drop_left' (flatMap_toList_length bs)

theorem messageBlock_zero (b : Block) (msg : List Byte) : messageBlock (b.toList ++ msg) 0 = b := by
  rw [messageBlock, Nat.mul_zero, List.drop_zero, List.take_left' b.toList_length,
    Block.ofList_toList]

/-- Behind the first block, the blocks are those of the rest of the message. -/
theorem messageBlock_succ (b : Block) (msg : List Byte) (j : Nat) :
    messageBlock (b.toList ++ msg) (j + 1) = messageBlock msg j := by
  rw [messageBlock, Nat.mul_succ, Nat.add_comm, ← List.drop_drop,
    List.drop_left' b.toList_length, messageBlock]

/-- The blocks before the last part are the full blocks of the cut. -/
theorem cutMessage_blocks (bs : List Block) (z : List Byte) :
    (List.range bs.length).map (messageBlock (cutMessage bs z)) = bs := by
  induction bs with
  | nil => rfl
  | cons b bs ih =>
    rw [List.length_cons, List.range_succ_eq_map, List.map_cons, List.map_map, cutMessage_cons,
      messageBlock_zero]
    exact congrArg (b :: ·) ((List.map_congr_left fun j _ => messageBlock_succ b _ j).trans ih)

/-- CMAC cuts off all of the full blocks, since the last part is empty in the empty message only. -/
theorem cmacBlocks_cutMessage {bs : List Block} {z : List Byte} (hz : z.length ≤ 16)
    (he : z = [] → bs = []) : cmacBlocks (cutMessage bs z).length - 1 = bs.length := by
  rw [cutMessage_length]
  cases z with
  | nil => rw [he rfl]; rfl
  | cons c l =>
    rw [List.length_cons] at hz ⊢
    rw [cmacBlocks, if_neg (by omega)]
    omega

/-- The last block of a message with the last part `z`: complete under K1 or padded under K2. -/
def lastBlock (k : Block) (z : List Byte) : Block :=
  if z.length = 16 then (Block.ofList z).xor (subkey1 k)
  else (Block.ofList (padBytes z)).xor (subkey2 k)

/-- A message ends in a complete block exactly when its last part has sixteen bytes. -/
theorem cutMessage_complete_iff {bs : List Block} {z : List Byte} (hz : z.length ≤ 16)
    (he : z = [] → bs = []) :
    (0 < (cutMessage bs z).length ∧ (cutMessage bs z).length % 16 = 0) ↔ z.length = 16 := by
  have hempty : z.length = 0 → bs.length = 0 := fun h =>
    List.length_eq_zero_iff.2 (he (List.length_eq_zero_iff.1 h))
  rw [cutMessage_length]
  omega

theorem cmacLast_cutMessage (k : Block) {bs : List Block} {z : List Byte} (hz : z.length ≤ 16)
    (he : z = [] → bs = []) : cmacLast k (cutMessage bs z) = lastBlock k z := by
  rw [cmacLast, cmacBlocks_cutMessage hz he, cutMessage_drop]
  exact if_congr (cutMessage_complete_iff hz he) rfl rfl

theorem cmac_cutMessage (k : Block) {bs : List Block} {z : List Byte} (hz : z.length ≤ 16)
    (he : z = [] → bs = []) :
    cmac k (cutMessage bs z) = aes k ((bs.foldl (cmacStep k) Block.zero).xor (lastBlock k z)) := by
  rw [cmac, cmacLast_cutMessage k hz he, cmacChain_eq_foldl, cmacBlocks_cutMessage hz he,
    cutMessage_blocks]

/-- Settles O20: a last part of sixteen bytes is not empty, and a shorter one is padded. -/
theorem cmacChainsTheMessageBlocks : Obligations.CmacChainsTheMessageBlocks := by
  intro k bs z
  refine ⟨fun hz => ?complete, fun hz he => ?padded⟩
  case complete =>
    have hne : z ≠ [] := List.ne_nil_of_length_pos (by omega)
    refine (cmac_cutMessage k hz.le fun h => absurd h hne).trans ?_
    rw [lastBlock, if_pos hz]
    rfl
  case padded =>
    refine (cmac_cutMessage k hz.le he).trans ?_
    rw [lastBlock, if_neg hz.ne, padBytes, List.append_cons]
    rfl

/-! ### B0 and MICGEN (R181 to R183) -/

/-- Settles O21: B0 has the address and counter bytes of A_i, with the counter written out. -/
theorem integrityBlockLayout : Obligations.IntegrityBlockLayout := by
  refine ⟨fun p addr fcnt mlen => ?_, rfl, rfl⟩
  rw [blockB0, nonceBytes_eq]
  rfl

theorem exec_micgen_of_no_session {s : State} (hs : s.sess = false) :
    exec .micgen s = .next (s.endWith 7) := if_neg (by simp [hs])

theorem exec_micgen_of_session {s : State} (hs : s.sess = true)
    (hlen : s.mlen.toNat ≤ Config.fifoCap) :
    exec .micgen s = .next ({ s with
      mic := mic4 s.params s.nwkskey s.devaddr s.fcnt s.message }.endWith 0) :=
  (if_pos hs).trans (if_pos hlen)

/-- The length byte of B0 is MLEN itself. -/
theorem mic4_message (s : State) :
    mic4 s.params s.nwkskey s.devaddr s.fcnt s.message =
      (cmac s.nwkskey (blockB0 s.params s.devaddr s.fcnt s.mlen ++ s.message)).c0 := by
  rw [mic4, message_length, BitVec.ofNat_toNat, BitVec.setWidth_eq]

/-- Settles O22. -/
theorem micgenComputesTheCode : Obligations.MicgenComputesTheCode := by
  refine ⟨rfl, fun s => ⟨exec_micgen_of_no_session, fun hs hlen => ?_⟩⟩
  rw [exec_micgen_of_session hs hlen, mic4_message]
  rfl

end Sys2Proof.Machine

/-! PROOF. The frame serializer of 43_frame.md: the parts of a frame, the state BUILD leaves in each of
its two outcomes, and what the transform and MICGEN make of a frame. -/

namespace Sys2Proof.Machine

/-! ### The parts of a frame (R201, R203) -/

section
variable {p : Params} {app nwk : Block} {addr : BitVec 32} {port : Byte} {fcnt : BitVec 16}
  {plain : List Byte}

/-- A frame is its header, its ciphertext and its code. -/
theorem frame_eq_append :
    frame p app nwk addr port fcnt plain =
      frameHeader p addr port fcnt ++ (cryptBytes p app false addr fcnt plain ++
        (frameMic p app nwk addr port fcnt plain).toList) :=
  List.append_assoc ..

theorem frame_drop_header :
    (frame p app nwk addr port fcnt plain).drop 9 =
      cryptBytes p app false addr fcnt plain ++ (frameMic p app nwk addr port fcnt plain).toList := by
  rw [frame_eq_append, List.drop_left' (frameHeader_length ..)]

theorem frame_drop_body :
    (frame p app nwk addr port fcnt plain).drop (9 + plain.length) =
      (frameMic p app nwk addr port fcnt plain).toList :=
  List.drop_left' (frameBody_length ..)

theorem frame_ciphertext :
    ((frame p app nwk addr port fcnt plain).drop 9).take plain.length =
      cryptBytes p app false addr fcnt plain := by
  rw [frame_drop_header, List.take_left' (cryptBytes_length ..)]

theorem frame_getElem?_header {k : Nat} (hk : k < 9) :
    (frame p app nwk addr port fcnt plain)[k]? = (frameHeader p addr port fcnt)[k]? := by
  rw [frame_eq_append, List.getElem?_append_left (by rwa [frameHeader_length])]

theorem frame_getElem?_ciphertext {j : Nat} (hj : j < plain.length) :
    (frame p app nwk addr port fcnt plain)[9 + j]? =
      plain[j]?.map (· ^^^ keystreamByte p app false addr fcnt j) := by
  rw [← List.getElem?_drop, frame_drop_header,
    List.getElem?_append_left (by rwa [cryptBytes_length]), cryptBytes_getElem?]

theorem frame_getElem?_mic {j : Nat} (hj : j < 4) :
    (frame p app nwk addr port fcnt plain)[9 + plain.length + j]? =
      some ((frameMic p app nwk addr port fcnt plain).get j) := by
  rw [← List.getElem?_drop, frame_drop_body, Quad.toList_getElem? _ _ hj]

/-- The length byte of the code's B0 counts header and ciphertext. -/
theorem frameMic_eq_cmac :
    frameMic p app nwk addr port fcnt plain =
      (cmac nwk (blockB0 p addr fcnt (BitVec.ofNat 8 (9 + plain.length)) ++
        frameBody p app addr port fcnt plain)).c0 := by
  rw [frameMic, mic4, frameBody_length]

end

/-- Settles O26: the ciphertext stands behind the header, and the transform is an involution. -/
theorem frameGivesBackThePayload : Obligations.FrameGivesBackThePayload := by
  intro p app nwk addr port fcnt plain
  rw [frame_ciphertext]
  exact transformIsAnInvolution p app false addr fcnt plain

/-! ### The two outcomes of BUILD (R202, R204, R206) -/

theorem State.frameLength_eq (s : State) : s.frameLength = 13 + s.plen.toNat := by
  simp only [State.frameLength, Config.hdrLen, Config.micLen]
  omega

theorem State.frameLength_le_fifoCap_iff (s : State) :
    s.frameLength ≤ Config.fifoCap ↔ s.plen.toNat ≤ 51 := by
  rw [s.frameLength_eq, Config.fifoCap]
  omega

/-- The integrity code BUILD computes. -/
def State.builtMic (s : State) : Quad :=
  frameMic s.params s.appskey s.nwkskey s.devaddr s.port s.fcnt s.payload

/-- The frame BUILD writes. -/
def State.builtFrame (s : State) : List Byte :=
  frame s.params s.appskey s.nwkskey s.devaddr s.port s.fcnt s.payload

/-- The bytes of that frame that its code covers. -/
def State.builtBody (s : State) : List Byte :=
  frameBody s.params s.appskey s.devaddr s.port s.fcnt s.payload

/-- A frame completed: memory, code and length replaced, the frame valid and no error. -/
def State.withFrame (s : State) (m : Memory) (code : Quad) (len : Byte) : State :=
  { s with mem := m, mic := code, flen := len, fvalid := true, err := 0 }

/-- The state after a BUILD whose frame fits. -/
def State.built (s : State) : State :=
  s.withFrame (s.mem.writeBytes fbufBase s.builtFrame) s.builtMic (BitVec.ofNat 8 s.frameLength)

theorem exec_build_of_fits {s : State} (hs : s.sess = true) (hfits : s.plen.toNat ≤ 51) :
    exec .build s = .next s.built :=
  (if_pos hs).trans (if_neg (Nat.not_lt.2 (s.frameLength_le_fifoCap_iff.2 hfits)))

theorem exec_build_of_oversize {s : State} (hs : s.sess = true) (hover : 52 ≤ s.plen.toNat) :
    exec .build s = .next ({ s with fvalid := false, flen := 0 }.endWith 4) :=
  (if_pos hs).trans (if_pos (by rw [← Nat.not_le, s.frameLength_le_fifoCap_iff]; omega))

/-- Settles O24: with 13 bytes around the payload, FIFO_CAP is reached at PLEN 51. -/
theorem buildRejectsAnOversizePayload : Obligations.BuildRejectsAnOversizePayload :=
  fun _ hs => ⟨exec_build_of_oversize hs, fun hfits => ⟨_, exec_build_of_fits hs hfits, rfl, rfl⟩⟩

/-! ### What a BUILD leaves (R202, R203) -/

/-- BUILD writes memory, MIC, FLEN, FVALID and ERR and nothing else. -/
theorem State.withFrame_frame (s : State) (m : Memory) (code : Quad) (len : Byte) :
    { s.withFrame m code len with mem := s.mem, mic := s.mic, flen := s.flen } =
      { s with fvalid := true, err := 0 } := rfl

theorem State.built_flen {s : State} (hfits : s.plen.toNat ≤ 51) :
    s.built.flen.toNat = 13 + s.plen.toNat :=
  (State.flen_of_frameLength (s.frameLength_le_fifoCap_iff.2 hfits)).trans s.frameLength_eq

theorem State.builtFrame_length (s : State) : s.builtFrame.length = 13 + s.plen.toNat := by
  rw [State.builtFrame, frame_length, payload_length]

theorem State.builtBody_length (s : State) : s.builtBody.length = 9 + s.plen.toNat := by
  rw [State.builtBody, frameBody_length, payload_length]

theorem State.built_readByte_other (s : State) {a : Nat}
    (ha : a < fbufBase ∨ fbufBase + (13 + s.plen.toNat) ≤ a) : s.built.readByte a = s.readByte a :=
  s.writeFbuf_readByte_other s.builtFrame a (by rwa [s.builtFrame_length])

/-- FBUF holds the frame from its start. -/
theorem State.built_fbufByte {s : State} {k : Nat} {b : Byte} (hb : s.builtFrame[k]? = some b) :
    s.built.fbufByte k = b := by
  have hw : s.built.fbufByte k = (s.builtFrame[k]?).getD (s.fbufByte k) :=
    s.writeFbuf_fbufByte s.builtFrame k
  rw [hw, hb, Option.getD_some]

theorem State.built_header {s : State} {k : Nat} {b : Byte} (hk : k < 9)
    (hb : (frameHeader s.params s.devaddr s.port s.fcnt)[k]? = some b) : s.built.fbufByte k = b :=
  State.built_fbufByte ((frame_getElem?_header hk).trans hb)

theorem State.built_ciphertext {s : State} {j : Nat} (hj : j < s.plen.toNat) :
    s.built.fbufByte (9 + j) =
      s.pbufByte j ^^^ keystreamByte s.params s.appskey false s.devaddr s.fcnt j := by
  apply State.built_fbufByte
  rw [State.builtFrame, frame_getElem?_ciphertext (by rwa [payload_length]),
    payload_getElem? s hj]
  rfl

theorem State.built_micBytes (s : State) {j : Nat} (hj : j < 4) :
    s.built.fbufByte (9 + s.plen.toNat + j) = s.builtMic.get j := by
  apply State.built_fbufByte
  rw [← payload_length s]
  exact frame_getElem?_mic hj

/-- The bytes of FBUF before the code are header and ciphertext. -/
theorem State.built_body (s : State) :
    (List.range (9 + s.plen.toNat)).map s.built.fbufByte = s.builtBody := by
  refine List.ext_getElem (by simp [s.builtBody_length]) fun k _ hk => ?_
  have hbody : s.builtFrame[k]? = some s.builtBody[k] := by
    rw [← List.getElem?_eq_getElem hk]
    exact List.getElem?_append_left hk
  rw [List.getElem_map, List.getElem_range]
  exact State.built_fbufByte hbody

theorem State.builtMic_eq_cmac (s : State) :
    s.builtMic = (cmac s.nwkskey
      (blockB0 s.params s.devaddr s.fcnt (BitVec.ofNat 8 (9 + s.plen.toNat)) ++ s.builtBody)).c0 := by
  rw [← payload_length s]
  exact frameMic_eq_cmac

/-- Settles O23: FBUF holds the frame, whose parts are the header, the ciphertext and the code. -/
theorem buildMakesTheFrame : Obligations.BuildMakesTheFrame := by
  refine ⟨rfl, rfl, fun s hs hfits => ⟨s.built, exec_build_of_fits hs hfits,
    ?mhdr, ?addr0, ?addr1, ?addr2, ?addr3, ?fctrl, ?fcnt0, ?fcnt1, ?port,
    fun j hj => State.built_ciphertext hj, fun j hj => s.built_micBytes hj, ?code,
    State.built_flen hfits, fun a ha => s.built_readByte_other ha, s.withFrame_frame ..⟩⟩
  case code =>
    rw [s.built_body]
    exact s.builtMic_eq_cmac
  all_goals exact State.built_header (by decide) rfl

/-! ### MICGEN right after BUILD (R207) -/

/-- The state after BUILD, with MLEN set to the length of header and ciphertext. -/
def State.builtForMicgen (s : State) : State := { s.built with mlen := s.built.flen - 4 }

theorem State.builtForMicgen_mlen {s : State} (hfits : s.plen.toNat ≤ 51) :
    s.builtForMicgen.mlen.toNat = 9 + s.plen.toNat := by
  have hflen := State.built_flen hfits
  have hsub : s.builtForMicgen.mlen = s.built.flen - 4 := rfl
  bv_omega

theorem State.builtForMicgen_message {s : State} (hfits : s.plen.toNat ≤ 51) :
    s.builtForMicgen.message = s.builtBody := by
  rw [State.message, State.builtForMicgen_mlen hfits]
  exact s.built_body

/-- The key, the address and the counter of the code are those BUILD took. -/
theorem State.builtForMicgen_mic4 {s : State} (hfits : s.plen.toNat ≤ 51) :
    let t := s.builtForMicgen
    mic4 t.params t.nwkskey t.devaddr t.fcnt t.message = t.mic := by
  intro t
  have hmessage : t.message = s.builtBody := State.builtForMicgen_message hfits
  rw [hmessage]
  rfl

/-- MICGEN changes nothing where MIC holds the message's code already and ERR is 0. -/
theorem exec_micgen_of_mic {s : State} (hs : s.sess = true) (hlen : s.mlen.toNat ≤ Config.fifoCap)
    (hmic : mic4 s.params s.nwkskey s.devaddr s.fcnt s.message = s.mic) (herr : s.err = 0) :
    exec .micgen s = .next s := by
  have hend : s.endWith 0 = s := by rw [← herr]; rfl
  rw [exec_micgen_of_session hs hlen, hmic]
  exact congrArg _ hend

/-- Settles O25: MICGEN takes the bytes BUILD's code covers, under the same operands. -/
theorem micgenAfterBuildReproducesTheCode : Obligations.MicgenAfterBuildReproducesTheCode := by
  intro s hs hfits
  have hlen : s.builtForMicgen.mlen.toNat ≤ Config.fifoCap := by
    rw [State.builtForMicgen_mlen hfits, Config.fifoCap]
    omega
  exact ⟨s.built, exec_build_of_fits hs hfits,
    exec_micgen_of_mic (s := s.builtForMicgen) hs hlen (State.builtForMicgen_mic4 hfits) rfl⟩

end Sys2Proof.Machine

/-! PROOF. The radio commands and micro-steps of 44_radio.md one by one: what each command leaves at its
issue, and what the engine's turn leaves in each phase of SEQ, cut into the cases its rule names. -/

namespace Sys2Proof.Machine

/-! ### The commands at issue (R230, R236, R238, R242) -/

theorem Params.profile?_eq_some {p : Params} {k : Nat} {d : DrProfile} (h : p.drTable[k]? = some d) :
    p.profile? k = some d.triple := by rw [Params.profile?, h]; rfl

theorem Params.profile?_eq_none {p : Params} {k : Nat} (h : p.nDr ≤ k) : p.profile? k = none := by
  rw [Params.profile?, List.getElem?_eq_none h]; rfl

theorem Params.channel?_eq_some_iff {p : Params} {r k : Nat} {c : Triple} :
    p.channel? r k = some c ↔ ∃ plan, p.chTable[r]? = some plan ∧ plan.channels[k]? = some c := by
  unfold Params.channel?
  cases p.chTable[r]? <;> simp

theorem exec_setdr_of_profile {s : State} {d : Triple} (h : s.profile? = some d) :
    exec .setdr s = .next ({ s with drcfg := d }.endWith 0) := by
  change execSetdr s = _
  rw [execSetdr, h]; rfl

theorem exec_setdr_of_no_profile {s : State} (h : s.profile? = none) :
    exec .setdr s = .next (s.endWith 3) := by
  change execSetdr s = _
  rw [execSetdr, h]; rfl

/-- Settles O27: an index is in DR_TABLE exactly below N_DR. -/
theorem setdrSelectsAProfile : Obligations.SetdrSelectsAProfile :=
  ⟨rfl, fun _ => ⟨fun _ hd => exec_setdr_of_profile (Params.profile?_eq_some hd),
    fun hk => exec_setdr_of_no_profile (Params.profile?_eq_none hk)⟩⟩

theorem exec_setch_of_no_session {s : State} (hs : s.sess = false) :
    exec .setch s = .next (s.endWith 7) := if_neg (by simp [hs])

theorem exec_setch_of_channel {s : State} {c : Triple} (hs : s.sess = true)
    (hc : s.channel? s.chsel.toNat = some c) :
    exec .setch s = .next ({ s with chcfg := c, chmode := true }.endWith 0) := by
  change execSetch s = _
  rw [execSetch, if_pos hs, hc]; rfl

/-- Settles O28. -/
theorem setchFixesAChannel : Obligations.SetchFixesAChannel :=
  ⟨rfl, fun _ => ⟨exec_setch_of_no_session, fun hs plan _ hp hc =>
    exec_setch_of_channel hs (Params.channel?_eq_some_iff.2 ⟨plan, hp, hc⟩)⟩⟩

/-- The state in which a command has started the sequencer at a phase. -/
def State.started (s : State) (q : Phase) : State := { s with busy := true, seq := q }

theorem exec_rinit (s : State) : exec .rinit s = .next (s.started .iVer) := rfl

theorem exec_send_of_ready {s : State} (hr : s.ready = true) (hs : s.sess = true)
    (hf : s.fvalid = true) : exec .send s = .next (s.started .sStdby) :=
  if_pos (by simp [State.sendReady, hr, hs, hf])

/-- Settles O29. -/
theorem rinitAndSendStartTheSequencer : Obligations.RinitAndSendStartTheSequencer :=
  fun s => ⟨exec_rinit s, exec_send_of_ready⟩

/-! ### The version check and the reset pulse (R231, R232) -/

theorem State.emit_emit (s : State) (e f : Event) :
    (s.emit e).emit f = { s with trace := s.trace ++ [e, f] } := by simp [State.emit]

/-- A read takes the first of the pending answers where there is one (20_memory.md R71). -/
theorem State.busAnswer_of_head? {s : State} {v : Byte} (h : s.busAnswers.head? = some v) :
    s.busAnswer = v := by
  rw [State.busAnswer, List.headD_eq_head?_getD, h, Option.getD_some]

/-- The state after a version read that answered the expected byte (R231). -/
def State.versionAccepted (s : State) : State :=
  { s with
    busAnswers := s.busAnswers.tail, asked := s.asked + 1, seq := .iRstA,
    trace := s.trace ++ [.busRead s.params.regVersion s.params.versionExpected] }

theorem engineTurn_iVer_expected {s : State} (hq : s.seq = .iVer)
    (hv : s.busAnswer = s.params.versionExpected) : engineTurn s = .next s.versionAccepted := by
  rw [engineTurn_iVer hq, microVersion, if_pos hv, State.versionAccepted, ← hv]; rfl

theorem engineTurn_iVer_unexpected {s : State} (hq : s.seq = .iVer)
    (hv : s.busAnswer ≠ s.params.versionExpected) :
    engineTurn s = .next ({ s.busRead s.params.regVersion with
      ready := false, busy := false, seq := .idle }.endWith 1) :=
  (engineTurn_iVer hq).trans (congrArg _ (if_neg hv))

theorem microResetAssert_eq (s : State) :
    microResetAssert s =
      { s with seq := .iRstB, trace := s.trace ++ [.rstAssert, .delay s.params.tRst1] } := by
  rw [microResetAssert, State.emit_emit]

theorem microResetRelease_eq (s : State) :
    microResetRelease s = { s with
      seq := .iBase, fidx := 0, trace := s.trace ++ [.rstRelease, .delay s.params.tRst2] } := by
  rw [microResetRelease, State.emit_emit]

/-- Settles O30: `v` is the answer the read finds. -/
theorem versionCheckAndResetPulse : Obligations.VersionCheckAndResetPulse := by
  intro s hn
  rw [step_of_engineNext hn]
  refine ⟨fun hq => ⟨s.busAnswer, fun w hw => State.busAnswer_of_head? hw, fun hv => ?_,
    fun hv => ?_⟩, fun hq => ?_, fun hq => ?_⟩
  · rw [hv]
    exact engineTurn_iVer_expected hq hv
  · exact engineTurn_iVer_unexpected hq hv
  · exact Eq.trans (engineTurn_iRstA hq) (congrArg _ (microResetAssert_eq _))
  · exact Eq.trans (engineTurn_iRstB hq) (congrArg _ (microResetRelease_eq _))

/-! ### The phases that count FIDX up (R233, R247, R248) -/

/-- One row of a table done: its event emitted, and FIDX at the next row. -/
def State.emitRow (s : State) (e : Event) : State := { s.emit e with fidx := s.fidx + 1 }

/-- RINIT's last step (R233). -/
def State.becomeReady (s : State) : State :=
  { s with ready := true, mode := .sleep, busy := false, seq := .idle, err := 0 }

theorem engineTurn_iBase_write {s : State} {w : BaselineWrite} (hq : s.seq = .iBase)
    (hw : s.params.baseline[s.fidx.toNat]? = some w) :
    engineTurn s = .next (s.emitRow (.busWrite w.addr w.value)) := by
  rw [engineTurn_iBase hq, microBaseline, hw]; rfl

theorem engineTurn_iBase_last {s : State} (hq : s.seq = .iBase)
    (hl : s.params.baseline.length ≤ s.fidx.toNat) : engineTurn s = .next s.becomeReady := by
  rw [engineTurn_iBase hq, microBaseline, List.getElem?_eq_none hl]; rfl

/-- Settles O31. -/
theorem baselineStep : Obligations.BaselineStep := by
  intro s hn hq
  rw [step_of_engineNext hn]
  exact ⟨fun _ hw => engineTurn_iBase_write hq hw, fun hl => engineTurn_iBase_last hq hl⟩

/-- The rows of R247's table as events, for the registers as they stand. -/
def State.configurationRows (s : State) : List Event :=
  configurationEvents s.params s.chcfg s.drcfg s.flen

theorem configurationWrite_row (s : State) (k : Nat) :
    (configurationWrite s k).map (fun w => .busWrite w.1 w.2) = s.configurationRows[k]? := by
  rcases k with _ | _ | _ | _ | _ | _ | _ | k <;> rfl

theorem configurationWrite_of_row {s : State} {k : Nat} {e : Event}
    (he : s.configurationRows[k]? = some e) :
    ∃ w, configurationWrite s k = some w ∧ .busWrite w.1 w.2 = e := by
  rwa [← configurationWrite_row, Option.map_eq_some_iff] at he

theorem engineTurn_sProg_write {s : State} {e : Event} (hq : s.seq = .sProg)
    (he : s.configurationRows[s.fidx.toNat]? = some e) (h6 : s.fidx ≠ 6) :
    engineTurn s = .next (s.emitRow e) := by
  obtain ⟨w, hw, rfl⟩ := configurationWrite_of_row he
  have h6' : s.fidx.toNat ≠ 6 := fun h => h6 (BitVec.eq_of_toNat_eq h)
  rw [engineTurn_sProg hq, microConfigure, hw]
  exact if_neg h6'

/-- The state after row 6. -/
def State.configured (s : State) : State :=
  { s.emit (.busWrite s.params.regPaylen s.flen) with fidx := 0, seq := .sFifo }

theorem engineTurn_sProg_last {s : State} (hq : s.seq = .sProg) (h6 : s.fidx = 6) :
    engineTurn s = .next s.configured := by
  rw [engineTurn_sProg hq, microConfigure, h6]; rfl

/-- The state after the last frame byte (R248). -/
def State.loaded (s : State) : State := { s with seq := .sTxgo }

theorem engineTurn_sFifo_write {s : State} (hq : s.seq = .sFifo) (hf : s.flen.toNat ≤ 64)
    (hk : s.fidx.toNat < s.flen.toNat) :
    engineTurn s = .next (s.emitRow (.busWrite s.params.regFifo (s.fbufByte s.fidx.toNat))) := by
  rw [engineTurn_sFifo hq, microFifo, if_pos hk]
  exact if_pos (hk.trans_le hf)

theorem engineTurn_sFifo_last {s : State} (hq : s.seq = .sFifo) (hk : s.flen.toNat ≤ s.fidx.toNat) :
    engineTurn s = .next s.loaded :=
  (engineTurn_sFifo hq).trans (if_neg (Nat.not_lt.2 hk))

/-! ### The steps that command a mode (R243, R249, R255) -/

theorem microSleep_eq (s : State) :
    microSleep s = { s with
      mode := .sleep, fvalid := false, busy := false, seq := .idle,
      err := if s.timedout then 5 else 0,
      trace := s.trace ++ [.busWrite s.params.regOpmode s.params.opmSleep] } := by
  unfold microSleep
  split_ifs <;> rfl

/-- Settles O32. -/
theorem modeCommandingSteps : Obligations.ModeCommandingSteps := by
  intro s hn
  rw [step_of_engineNext hn]
  exact ⟨fun hq => engineTurn_sStdby hq, fun hq => engineTurn_sTxgo hq,
    fun hq => Eq.trans (engineTurn_sSleep hq) (congrArg _ (microSleep_eq _))⟩

/-! ### The channel (R244, R246) -/

/-- The state with the channel chosen and the configuration table ahead. -/
def State.channelChosen (s : State) (c : Triple) : State :=
  { s with chcfg := c, fidx := 0, seq := .sProg }

theorem engineTurn_sChsel_single {s : State} (hq : s.seq = .sChsel) (hm : s.chmode = true) :
    engineTurn s = .next (s.channelChosen s.chcfg) := (engineTurn_sChsel hq).trans (if_pos hm)

theorem engineTurn_sChsel_draw {s : State} {c : Triple} (hq : s.seq = .sChsel)
    (hm : s.chmode = false) (hr : s.region.toNat < s.params.nRegion)
    (hc : s.channel? (s.draw s.channelCount) = some c) :
    engineTurn s = .next ((s.drawChannel s.channelCount).channelChosen c) := by
  have hn : s.channelCount ≠ 0 := (Params.nCh_pos _ _ hr).ne'
  rw [engineTurn_sChsel hq, microChannel, if_neg (by simp [hm]), if_neg hn, hc]
  rfl

/-- A pending draw that is in range is taken as it stands. -/
theorem State.draw_of_cons {s : State} {n j : Nat} {more : List Nat} (h : s.drawAnswers = j :: more)
    (hj : j < n) : s.draw n = j := by
  rw [State.draw, h]
  exact Nat.mod_eq_of_lt hj

/-- What a draw among the channels of a known region finds. -/
theorem State.draw_channel {s : State} (hr : s.region.toNat < s.params.nRegion) :
    ∃ ch plan, s.draw s.channelCount < s.params.nCh s.region.toNat ∧
      s.params.chTable[s.region.toNat]? = some plan ∧
      plan.channels[s.draw s.channelCount]? = some ch := by
  have hlt := s.draw_lt s.channelCount (Params.nCh_pos _ _ hr)
  obtain ⟨ch, hch⟩ := Params.channel?_isSome _ _ _ hlt
  obtain ⟨plan, hp, hc⟩ := Params.channel?_eq_some_iff.1 hch
  exact ⟨ch, plan, hlt, hp, hc⟩

/-- Settles O33: `k` is the draw the step finds. -/
theorem channelStep : Obligations.ChannelStep := by
  intro s hn hq
  rw [step_of_engineNext hn]
  refine ⟨fun hm => engineTurn_sChsel_single hq hm, fun hm hr => ?_⟩
  obtain ⟨ch, plan, hlt, hp, hc⟩ := State.draw_channel hr
  exact ⟨_, ch, plan, hlt, hp, hc, fun _ _ hj => State.draw_of_cons hj,
    engineTurn_sChsel_draw hq hm hr (Params.channel?_eq_some_iff.2 ⟨plan, hp, hc⟩)⟩

/-! ### Polling and ticks (R250, R252 to R254) -/

/-- A sample takes the first of the pending bits where there is one (R252). -/
theorem State.txDone_of_head? {s : State} {d : Bool} (h : s.txDoneAnswers.head? = some d) :
    s.txDone = d := by
  rw [State.txDone, List.headD_eq_head?_getD, h, Option.getD_some]

theorem State.pollWait_le (s : State) : s.pollWait ≤ s.params.tPoll :=
  Nat.le_of_lt_succ (Nat.mod_lt _ (Nat.succ_pos _))

/-- A poll's sample found the bit `d` and ends the poll; `late` is whether the time had passed
(R250, R252). -/
def State.pollEnded (s : State) (d late : Bool) : State :=
  { s with
    txDoneAnswers := s.txDoneAnswers.tail, asked := s.asked + 1,
    seq := .sSleep, timedout := late, trace := s.trace ++ [.sampleTxDone d] }

theorem engineTurn_sPoll_signal {s : State} (hq : s.seq = .sPoll) (hd : s.txDone = true) :
    engineTurn s = .next (s.pollEnded true s.timedout) := by
  rw [engineTurn_sPoll hq, microPoll, if_pos hd, State.pollEnded, ← hd]; rfl

theorem engineTurn_sPoll_timeout {s : State} (hq : s.seq = .sPoll) (hd : s.txDone = false)
    (ht : s.tmo.toNat ≤ s.elapsed.toNat) : engineTurn s = .next (s.pollEnded false true) := by
  rw [engineTurn_sPoll hq, microPoll, if_neg (by simp [hd]),
    if_pos (by simpa [State.timeoutReached] using ht), State.pollEnded, ← hd]; rfl

/-- A poll that ends nothing: a sample of 0 and a wait (R250). -/
def State.polled (s : State) (w : Nat) : State :=
  { s with
    txDoneAnswers := s.txDoneAnswers.tail, asked := s.asked + 1,
    trace := s.trace ++ [.sampleTxDone false, .delay w] }

theorem engineTurn_sPoll_wait {s : State} (hq : s.seq = .sPoll) (hd : s.txDone = false)
    (ht : s.elapsed.toNat < s.tmo.toNat) : engineTurn s = .next (s.polled s.pollWait) := by
  rw [engineTurn_sPoll hq, microPoll, if_neg (by simp [hd]),
    if_neg (by simpa [State.timeoutReached] using ht)]
  simp [State.sampleTxDone, State.polled, State.emit, hd]

/-- Settles O36: `d` is the bit the sample finds. -/
theorem pollStep : Obligations.PollStep := by
  intro s hn hq
  rw [step_of_engineNext hn]
  refine ⟨s.txDone, fun e he => State.txDone_of_head? he, fun hd => ?_, fun hd ht => ?_,
    fun hd ht => ?_⟩
  · exact engineTurn_sPoll_signal hq hd
  · exact engineTurn_sPoll_timeout hq hd ht
  · exact ⟨_, s.pollWait_le, engineTurn_sPoll_wait hq hd ht⟩

/-- One tick more, up to the largest value of the register (10_state.md R46). -/
theorem toNat_saturating_succ (e : BitVec 16) :
    (if e = 0xFFFF then 0xFFFF else e + 1 : BitVec 16).toNat = min (e.toNat + 1) 0xFFFF := by
  split_ifs with h
  · subst h; rfl
  · have hne : e.toNat ≠ 0xFFFF := fun h' => h (BitVec.eq_of_toNat_eq h')
    bv_omega

theorem State.tick_polling {s : State} (hq : s.seq = .sPoll) :
    ∃ e : BitVec 16, e.toNat = min (s.elapsed.toNat + 1) 0xFFFF ∧
      s.tick = { s with elapsed := e } :=
  ⟨_, toNat_saturating_succ s.elapsed, if_pos hq⟩

/-- Settles O37. -/
theorem tickCountsOnlyWhilePolling : Obligations.TickCountsOnlyWhilePolling := by
  intro s rest hs
  have hstep : step s = .next { s with agenda := rest }.tick := step_of_agenda_cons hs
  refine ⟨fun hq => ?_, fun hq => hstep.trans (congrArg _ (if_neg hq))⟩
  obtain ⟨e, he, ht⟩ := State.tick_polling (s := { s with agenda := rest }) hq
  exact ⟨e, he, hstep.trans (congrArg _ ht)⟩

end Sys2Proof.Machine

/-! PROOF. Whole runs of the sequencer (44_radio.md R230 to R255): the phases that take several steps as
runs of their own, and RINIT, SEND and the unanswered poll put together from them. -/

namespace Sys2Proof.Machine

/-! ### Tables worked off row by row -/

/-- With nothing pending one step is the engine's turn. -/
theorem runSteps_engineTurn {s t : State} (ha : s.agenda = []) (ht : engineTurn s = .next t) :
    runSteps 1 s = .next t := by rw [runSteps_one, step_of_agenda_nil ha, ht]

/-- A run that begins with the engine's turn. -/
theorem runSteps_engineTurn_succ {s t : State} {n : Nat} {o : Host.Outcome State Fault Refusal}
    (ha : s.agenda = []) (ht : engineTurn s = .next t) (ho : runSteps n t = o) :
    runSteps (n + 1) s = o := by
  rw [Nat.add_comm]
  exact runSteps_add (runSteps_engineTurn ha ht) ho

/-- The state at row `i` of a table, the events `es` having been emitted since `s`. -/
def State.atRow (s : State) (i : Byte) (es : List Event) : State :=
  { s with fidx := i, trace := s.trace ++ es }

theorem State.atRow_zero {s : State} (h0 : s.fidx = 0) : s.atRow 0 [] = s := by
  rw [State.atRow, List.append_nil, ← h0]

theorem State.emitRow_atRow (s : State) (i : Byte) (es : List Event) (e : Event) :
    (s.atRow i es).emitRow e = s.atRow (i + 1) (es ++ [e]) := by
  simp [State.atRow, State.emitRow]

/-- Let every row of a table take one engine's turn, at which FIDX is the row's index: then `n` steps
emit the table's first `n` rows. -/
theorem runSteps_rows {s : State} {es : List Event} {n : Nat} (ha : s.agenda = [])
    (h0 : s.fidx = 0) (hn : n ≤ es.length) (hbyte : n ≤ 255)
    (hrow : ∀ (i : Byte) (before : List Event) (e : Event), i.toNat < n → es[i.toNat]? = some e →
      engineTurn (s.atRow i before) = .next ((s.atRow i before).emitRow e)) :
    runSteps n s = .next (s.atRow (BitVec.ofNat 8 n) (es.take n)) := by
  induction n with
  | zero => exact congrArg _ (State.atRow_zero h0).symm
  | succ n ih =>
    have hi : (BitVec.ofNat 8 n).toNat = n := toNat_ofNat_of_lt (by omega)
    have hfirst := ih (by omega) (by omega) fun i before e hlt => hrow i before e (by omega)
    have hlast := hrow (BitVec.ofNat 8 n) (es.take n) es[n] (by omega)
      (by rw [hi, List.getElem?_eq_getElem hn])
    have hnext : BitVec.ofNat 8 n + 1 = BitVec.ofNat 8 (n + 1) := (BitVec.ofNat_add ..).symm
    rw [State.emitRow_atRow, List.take_append_getElem, hnext] at hlast
    exact runSteps_add hfirst (runSteps_engineTurn ha hlast)

/-! ### RINIT -/

theorem runSteps_iBase {s : State} {n : Nat} (ha : s.agenda = []) (hq : s.seq = .iBase)
    (h0 : s.fidx = 0) (hn : s.params.baseline.length = n) (hbyte : n ≤ 255) :
    runSteps n s = .next (s.atRow (BitVec.ofNat 8 n) (baselineEvents s.params)) := by
  have hlen : (baselineEvents s.params).length = n := (List.length_map _).trans hn
  have hrun := runSteps_rows ha h0 hlen.ge hbyte fun i before e _ he => by
    obtain ⟨w, hw, rfl⟩ :
        ∃ w, s.params.baseline[i.toNat]? = some w ∧ .busWrite w.addr w.value = e := by
      simpa [baselineEvents] using he
    exact engineTurn_iBase_write hq hw
  rwa [List.take_of_length_le hlen.le] at hrun

/-- The state a successful RINIT ends in, the events `es` having been emitted since `s` (R233). -/
def State.initialised (s : State) (es : List Event) : State :=
  { s with
    ready := true, mode := .sleep, busy := false, seq := .idle, err := 0,
    fidx := BitVec.ofNat 8 s.params.baseline.length, trace := s.trace ++ es }

theorem runSteps_from_iBase {s : State} (ha : s.agenda = []) (hq : s.seq = .iBase) (h0 : s.fidx = 0)
    (hl : s.params.baseline.length ≤ 255) :
    runSteps (s.params.baseline.length + 1) s =
      .next (s.initialised (baselineEvents s.params)) := by
  have hi : (BitVec.ofNat 8 s.params.baseline.length).toNat = s.params.baseline.length :=
    toNat_ofNat_of_lt (by omega)
  refine runSteps_add (runSteps_iBase ha hq h0 rfl hl) ?_
  exact runSteps_engineTurn ha (engineTurn_iBase_last hq hi.ge)

theorem runSteps_from_iRstB {s : State} (ha : s.agenda = []) (hq : s.seq = .iRstB)
    (hl : s.params.baseline.length ≤ 255) :
    runSteps (s.params.baseline.length + 2) s = .next (s.initialised
      ([.rstRelease, .delay s.params.tRst2] ++ baselineEvents s.params)) := by
  refine runSteps_engineTurn_succ ha (engineTurn_iRstB hq) ?_
  rw [microResetRelease_eq]
  refine Eq.trans (runSteps_from_iBase ha rfl rfl hl) ?_
  simp [State.initialised]

theorem runSteps_from_iRstA {s : State} (ha : s.agenda = []) (hq : s.seq = .iRstA)
    (hl : s.params.baseline.length ≤ 255) :
    runSteps (s.params.baseline.length + 3) s = .next (s.initialised
      ([.rstAssert, .delay s.params.tRst1, .rstRelease, .delay s.params.tRst2]
        ++ baselineEvents s.params)) := by
  refine runSteps_engineTurn_succ ha (engineTurn_iRstA hq) ?_
  rw [microResetAssert_eq]
  refine Eq.trans (runSteps_from_iRstB ha rfl hl) ?_
  simp [State.initialised]

/-- Settles O38: the version read, the two reset edges, the baseline writes and the last step. -/
theorem rinitRunsToReady : Obligations.RinitRunsToReady := by
  intro s ha hv hl
  refine ⟨_, exec_rinit s, ?_⟩
  rw [Nat.add_comm]
  refine runSteps_engineTurn_succ ha (engineTurn_iVer_expected rfl hv) ?_
  refine Eq.trans (runSteps_from_iRstA ha rfl hl) ?_
  simp [State.initialised, State.versionAccepted, State.started]

/-! ### The phases of SEND -/

/-- The state after the seven configuration writes (R247). -/
def State.programmed (s : State) : State :=
  { s with seq := .sFifo, fidx := 0, trace := s.trace ++ s.configurationRows }

theorem State.configured_atRow_six (s : State) :
    (s.atRow 6 (s.configurationRows.take 6)).configured = s.programmed := by
  simp [State.configured, State.programmed, State.atRow, State.emit, State.configurationRows,
    configurationEvents]

theorem runSteps_sProg {s : State} (ha : s.agenda = []) (hq : s.seq = .sProg) (h0 : s.fidx = 0) :
    runSteps 7 s = .next s.programmed := by
  have hrows : 6 ≤ s.configurationRows.length := Nat.le_succ 6
  have hrun := runSteps_rows ha h0 hrows (by decide) fun i before e hi he =>
    engineTurn_sProg_write hq he fun h6 : i = 6 => absurd hi (by rw [h6]; decide)
  rw [← State.configured_atRow_six]
  exact runSteps_add hrun (runSteps_engineTurn ha (engineTurn_sProg_last hq rfl))

/-- Settles O34: a row's event is the write its step makes. -/
theorem configurationTakesSevenSteps : Obligations.ConfigurationTakesSevenSteps := by
  intro s hn hq
  refine ⟨fun e he h6 => ?_, fun h6 => ?_, fun h0 ha => runSteps_sProg ha hq h0⟩
  · rw [step_of_engineNext hn]
    exact engineTurn_sProg_write hq he h6
  · rw [step_of_engineNext hn]
    exact engineTurn_sProg_last hq h6

theorem runSteps_sFifo {s : State} {n : Nat} (ha : s.agenda = []) (hq : s.seq = .sFifo)
    (h0 : s.fidx = 0) (hn : s.flen.toNat = n) (hf : n ≤ 64) :
    runSteps (n + 1) s = .next (s.atRow s.flen (fifoEvents s.params s.frameBytes)).loaded := by
  subst hn
  have hlen : (fifoEvents s.params s.frameBytes).length = s.flen.toNat := by
    simp [fifoEvents, State.frameBytes]
  have hrun := runSteps_rows ha h0 hlen.ge (by omega) fun i before e hi he => by
    obtain rfl : .busWrite s.params.regFifo (s.fbufByte i.toNat) = e := by
      simpa [fifoEvents, State.frameBytes, hi] using he
    exact engineTurn_sFifo_write hq hf hi
  rw [List.take_of_length_le hlen.le, BitVec.ofNat_toNat, BitVec.setWidth_eq] at hrun
  exact runSteps_add hrun (runSteps_engineTurn ha (engineTurn_sFifo_last hq le_rfl))

/-- Settles O35. -/
theorem fifoLoadSendsTheFrameInOrder : Obligations.FifoLoadSendsTheFrameInOrder := by
  intro s hn hq hf
  refine ⟨fun hk => ?_, fun hk => ?_, fun h0 ha => runSteps_sFifo ha hq h0 rfl hf⟩
  · rw [step_of_engineNext hn]
    exact engineTurn_sFifo_write hq hf hk
  · rw [step_of_engineNext hn]
    exact engineTurn_sFifo_last hq hk

/-! ### Polls that end nothing -/

/-- The waits of `n` polls, each of at most T_POLL (R250). -/
def PollWaits (p : Params) (n : Nat) (waits : List Nat) : Prop :=
  waits.length = n ∧ ∀ w ∈ waits, w ≤ p.tPoll

theorem PollWaits.nil (p : Params) : PollWaits p 0 [] := ⟨rfl, nofun⟩

theorem PollWaits.cons {p : Params} {n w : Nat} {waits : List Nat} (hw : w ≤ p.tPoll)
    (h : PollWaits p n waits) : PollWaits p (n + 1) (w :: waits) :=
  ⟨congrArg (· + 1) h.1, List.forall_mem_cons.2 ⟨hw, h.2⟩⟩

/-- The state after polls with the given waits, `answers` being the samples still pending. -/
def State.afterPolls (s : State) (waits : List Nat) (answers : List Bool) : State :=
  { s with
    txDoneAnswers := answers, asked := s.asked + waits.length,
    trace := s.trace ++ pollEvents waits }

theorem State.afterPolls_nil (s : State) : s.afterPolls [] s.txDoneAnswers = s := by
  simp [State.afterPolls]

theorem State.afterPolls_cons (s : State) (w : Nat) (waits : List Nat) (answers : List Bool) :
    (s.polled w).afterPolls waits answers = s.afterPolls (w :: waits) answers := by
  simp [State.afterPolls, State.polled, Nat.add_right_comm, Nat.add_assoc]

theorem State.txDone_of_cons {s : State} {d : Bool} {more : List Bool}
    (h : s.txDoneAnswers = d :: more) : s.txDone = d := State.txDone_of_head? (by rw [h]; rfl)

/-- `n` samples of 0 before the time is reached, and no tick between them. -/
theorem runSteps_polls {n : Nat} {answers : List Bool} {s : State} (ha : s.agenda = [])
    (hq : s.seq = .sPoll) (hd : s.txDoneAnswers = List.replicate n false ++ answers)
    (ht : n = 0 ∨ s.elapsed.toNat < s.tmo.toNat) :
    ∃ waits, PollWaits s.params n waits ∧ runSteps n s = .next (s.afterPolls waits answers) := by
  induction n generalizing s with
  | zero =>
    obtain rfl : s.txDoneAnswers = answers := hd
    exact ⟨[], .nil _, congrArg _ s.afterPolls_nil.symm⟩
  | succ n ih =>
    have ht' : s.elapsed.toNat < s.tmo.toNat := by omega
    have hfirst := engineTurn_sPoll_wait hq (State.txDone_of_cons hd) ht'
    obtain ⟨waits, hw, hrun⟩ := ih (s := s.polled s.pollWait) ha hq
      (congrArg List.tail hd) (.inr ht')
    refine ⟨s.pollWait :: waits, hw.cons s.pollWait_le, ?_⟩
    rw [← State.afterPolls_cons]
    exact runSteps_engineTurn_succ ha hfirst hrun

/-! ### SEND -/

/-- The state a SEND that found the signal ends in: `k` answers given and the events `es` emitted
since `s` (R242, R255). -/
def State.sent (s : State) (more : List Bool) (k : Nat) (es : List Event) : State :=
  { s with
    mode := .sleep, busy := false, seq := .idle, fvalid := false, err := 0,
    fidx := s.flen, elapsed := 0, timedout := false,
    txDoneAnswers := more, asked := s.asked + k, trace := s.trace ++ es }

/-- CHCFG after a draw that found the channel `c`, and the draw used up (R246). -/
def State.withDraw (s : State) (c : Triple) : State :=
  { s with chcfg := c, drawAnswers := s.drawAnswers.tail, asked := s.asked + 1 }

/-- The state after a SEND's first micro-step (R242, R243). -/
def State.standingBy (s : State) : State :=
  { s with
    busy := true, seq := .sChsel, mode := .standby,
    trace := s.trace ++ [.busWrite s.params.regOpmode s.params.opmStdby] }

/-! Where SEND ends does not depend on the phase it goes on from, but for the events emitted so far and,
in multi-channel mode, the draw. -/

section
variable (s : State) (more : List Bool) (k : Nat) (es : List Event)

theorem State.sent_microTransmit :
    (microTransmit s).sent more k es =
      s.sent more k (.busWrite s.params.regOpmode s.params.opmTx :: es) := by
  simp [State.sent, microTransmit, State.emit]

theorem State.sent_loaded (fs : List Event) :
    (s.atRow s.flen fs).loaded.sent more k es = s.sent more k (fs ++ es) := by
  simp [State.sent, State.atRow, State.loaded]

theorem State.sent_programmed :
    s.programmed.sent more k es = s.sent more k (s.configurationRows ++ es) := by
  simp [State.sent, State.programmed]

theorem State.sent_drawChannel (m : Nat) (c : Triple) :
    ((s.drawChannel m).channelChosen c).sent more k es =
      (s.withDraw c).sent more k (.drawChannel m (s.draw m) :: es) := by
  simp [State.sent, State.channelChosen, State.drawChannel, State.emit, State.withDraw]

theorem State.sent_standingBy :
    s.standingBy.sent more k es =
      s.sent more k (.busWrite s.params.regOpmode s.params.opmStdby :: es) := by
  simp [State.sent, State.standingBy]

theorem State.sent_withDraw_standingBy (c : Triple) :
    (s.standingBy.withDraw c).sent more k es =
      (s.withDraw c).sent more k (.busWrite s.params.regOpmode s.params.opmStdby :: es) :=
  State.sent_standingBy (s.withDraw c) more k es

end

/-- The events of a SEND from S_POLL on (R250, R255). -/
def eventsFromPoll (p : Params) (waits : List Nat) : List Event :=
  pollEvents waits ++ [.sampleTxDone true, .busWrite p.regOpmode p.opmSleep]

/-- The events of a SEND from S_FIFO on (R248, R249). -/
def State.eventsFromFifo (s : State) (waits : List Nat) : List Event :=
  fifoEvents s.params s.frameBytes ++ .busWrite s.params.regOpmode s.params.opmTx ::
    eventsFromPoll s.params waits

theorem sendEvents_eq (s : State) (draws : List Event) (c : Triple) (waits : List Nat) :
    sendEvents s.params draws c s.drcfg s.flen s.frameBytes waits =
      .busWrite s.params.regOpmode s.params.opmStdby :: (draws ++
        (configurationEvents s.params c s.drcfg s.flen ++ s.eventsFromFifo waits)) := by
  simp [sendEvents, State.eventsFromFifo, eventsFromPoll]

theorem runSteps_sStdby {s : State} (ha : s.agenda = []) :
    runSteps 1 (s.started .sStdby) = .next s.standingBy :=
  runSteps_engineTurn ha (engineTurn_sStdby rfl)

theorem PollWaits.replicate_zero (p : Params) (n : Nat) : PollWaits p n (List.replicate n 0) :=
  ⟨List.length_replicate, fun _ hw => (List.eq_of_mem_replicate hw).trans_le (Nat.zero_le _)⟩

section
variable {s : State} {n : Nat} {more : List Bool} (ha : s.agenda = [])
  (hd : s.txDoneAnswers = List.replicate n false ++ true :: more) (ht : n = 0 ∨ 0 < s.tmo.toNat)
include ha hd ht

theorem runSteps_from_sPoll (hq : s.seq = .sPoll) (hi : s.fidx = s.flen) (he : s.elapsed = 0)
    (hto : s.timedout = false) :
    ∃ waits, PollWaits s.params n waits ∧
      runSteps (n + 2) s = .next (s.sent more (n + 1) (eventsFromPoll s.params waits)) := by
  obtain ⟨waits, hw, hpolls⟩ := runSteps_polls ha hq hd (ht.imp_right (by rw [he]; exact id))
  refine ⟨waits, hw, runSteps_add hpolls ?_⟩
  refine runSteps_engineTurn_succ ha (engineTurn_sPoll_signal hq rfl) ?_
  refine Eq.trans (runSteps_engineTurn ha (engineTurn_sSleep rfl)) ?_
  obtain ⟨hn, -⟩ := hw
  rw [microSleep_eq]
  simp [State.sent, State.pollEnded, State.afterPolls, eventsFromPoll, hn, hi, he, hto,
    Nat.add_assoc]

theorem runSteps_from_sTxgo (hq : s.seq = .sTxgo) (hi : s.fidx = s.flen) :
    ∃ waits, PollWaits s.params n waits ∧
      runSteps (n + 3) s = .next (s.sent more (n + 1)
        (.busWrite s.params.regOpmode s.params.opmTx :: eventsFromPoll s.params waits)) := by
  obtain ⟨waits, hw, hrun⟩ := runSteps_from_sPoll (s := microTransmit s) ha hd ht rfl hi rfl rfl
  rw [State.sent_microTransmit] at hrun
  exact ⟨waits, hw, runSteps_engineTurn_succ ha (engineTurn_sTxgo hq) hrun⟩

variable (hf : s.flen.toNat ≤ 64)
include hf

theorem runSteps_from_sFifo (hq : s.seq = .sFifo) (h0 : s.fidx = 0) :
    ∃ waits, PollWaits s.params n waits ∧
      runSteps (n + s.flen.toNat + 4) s =
        .next (s.sent more (n + 1) (s.eventsFromFifo waits)) := by
  obtain ⟨waits, hw, hrun⟩ := runSteps_from_sTxgo
    (s := (s.atRow s.flen (fifoEvents s.params s.frameBytes)).loaded) ha hd ht rfl rfl
  rw [State.sent_loaded] at hrun
  refine ⟨waits, hw, ?_⟩
  rw [show n + s.flen.toNat + 4 = s.flen.toNat + 1 + (n + 3) by omega]
  exact runSteps_add (runSteps_sFifo ha hq h0 rfl hf) hrun

/-- From S_PROG on SEND is the same in both channel modes. -/
theorem runSteps_from_sProg (hq : s.seq = .sProg) (h0 : s.fidx = 0) :
    ∃ waits, PollWaits s.params n waits ∧
      runSteps (n + s.flen.toNat + 11) s =
        .next (s.sent more (n + 1) (s.configurationRows ++ s.eventsFromFifo waits)) := by
  obtain ⟨waits, hw, hrun⟩ := runSteps_from_sFifo (s := s.programmed) ha hd ht hf rfl rfl
  rw [State.sent_programmed] at hrun
  refine ⟨waits, hw, ?_⟩
  rw [show n + s.flen.toNat + 11 = 7 + (n + s.flen.toNat + 4) by omega]
  exact runSteps_add (runSteps_sProg ha hq h0) hrun

/-- In single-channel mode SEND goes out on CHCFG (R244). -/
theorem runSteps_from_sChsel_single (hq : s.seq = .sChsel) (hm : s.chmode = true) :
    ∃ waits, PollWaits s.params n waits ∧
      runSteps (n + s.flen.toNat + 12) s =
        .next (s.sent more (n + 1) (s.configurationRows ++ s.eventsFromFifo waits)) := by
  obtain ⟨waits, hw, hrun⟩ := runSteps_from_sProg (s := s.channelChosen s.chcfg) ha hd ht hf rfl rfl
  exact ⟨waits, hw, runSteps_engineTurn_succ ha (engineTurn_sChsel_single hq hm) hrun⟩

/-- In multi-channel mode it goes out on the channel drawn (R244, R246). -/
theorem runSteps_from_sChsel_draw (hq : s.seq = .sChsel) (hm : s.chmode = false)
    (hr : s.region.toNat < s.params.nRegion) {c : Triple}
    (hc : s.channel? (s.draw s.channelCount) = some c) :
    ∃ waits, PollWaits s.params n waits ∧
      runSteps (n + s.flen.toNat + 12) s = .next ((s.withDraw c).sent more (n + 1)
        (.drawChannel s.channelCount (s.draw s.channelCount) ::
          (configurationEvents s.params c s.drcfg s.flen ++ s.eventsFromFifo waits))) := by
  obtain ⟨waits, hw, hrun⟩ := runSteps_from_sProg
    (s := (s.drawChannel s.channelCount).channelChosen c) ha hd ht hf rfl rfl
  rw [State.sent_drawChannel] at hrun
  exact ⟨waits, hw, runSteps_engineTurn_succ ha (engineTurn_sChsel_draw hq hm hr hc) hrun⟩

/-- The whole of a SEND in single-channel mode. -/
theorem runSteps_send_single (hm : s.chmode = true) :
    ∃ waits, PollWaits s.params n waits ∧
      runSteps (s.flen.toNat + 13 + n) (s.started .sStdby) = .next (s.sent more (n + 1)
        (sendEvents s.params [] s.chcfg s.drcfg s.flen s.frameBytes waits)) := by
  obtain ⟨waits, hw, hrun⟩ := runSteps_from_sChsel_single (s := s.standingBy) ha hd ht hf rfl hm
  refine ⟨waits, hw, ?_⟩
  rw [sendEvents_eq, ← State.sent_standingBy,
    show s.flen.toNat + 13 + n = 1 + (n + s.flen.toNat + 12) by omega]
  exact runSteps_add (runSteps_sStdby ha) hrun

/-- The whole of a SEND in multi-channel mode, the draw having found the channel `c`. -/
theorem runSteps_send_draw (hm : s.chmode = false) (hr : s.region.toNat < s.params.nRegion)
    {c : Triple} (hc : s.channel? (s.draw s.channelCount) = some c) :
    ∃ waits, PollWaits s.params n waits ∧
      runSteps (s.flen.toNat + 13 + n) (s.started .sStdby) = .next ((s.withDraw c).sent more (n + 1)
        (sendEvents s.params [.drawChannel s.channelCount (s.draw s.channelCount)] c s.drcfg s.flen
          s.frameBytes waits)) := by
  obtain ⟨waits, hw, hrun⟩ := runSteps_from_sChsel_draw (s := s.standingBy) ha hd ht hf rfl hm hr hc
  refine ⟨waits, hw, ?_⟩
  rw [sendEvents_eq, ← State.sent_withDraw_standingBy,
    show s.flen.toNat + 13 + n = 1 + (n + s.flen.toNat + 12) by omega]
  exact runSteps_add (runSteps_sStdby ha) hrun

end

/-- Settles O39: one run for each channel mode; without a known region there is no draw, and nothing to
show of a run. -/
theorem sendEmitsItsWholeTrace : Obligations.SendEmitsItsWholeTrace := by
  intro s n more ha hr hs hv hf hd ht
  have hexec := exec_send_of_ready hr hs hv
  rcases Bool.eq_false_or_eq_true s.chmode with hm | hm
  · obtain ⟨waits, ⟨hlen, hle⟩, hrun⟩ := runSteps_send_single ha hd ht hf hm
    exact ⟨_, waits, hexec, hlen, hle, fun _ => hrun, fun h => absurd (hm.symm.trans h) nofun⟩
  by_cases hreg : s.region.toNat < s.params.nRegion
  · obtain ⟨ch, plan, hlt, hp, hc⟩ := State.draw_channel hreg
    obtain ⟨waits, ⟨hlen, hle⟩, hrun⟩ := runSteps_send_draw ha hd ht hf hm hreg
      (Params.channel?_eq_some_iff.2 ⟨plan, hp, hc⟩)
    refine ⟨_, waits, hexec, hlen, hle, fun h => absurd (hm.symm.trans h) nofun, fun _ _ => ?_⟩
    refine ⟨_, ch, plan, hlt, hp, hc, fun _ _ hj => State.draw_of_cons hj, ?_⟩
    rw [show s.asked + (n + 2) = s.asked + 1 + (n + 1) by omega]
    exact hrun
  · obtain ⟨hlen, hle⟩ := PollWaits.replicate_zero s.params n
    exact ⟨_, _, hexec, hlen, hle, fun h => absurd (hm.symm.trans h) nofun,
      fun _ h => absurd h hreg⟩

/-! ### The poll that is not answered -/

/-- The state after a sample of 0, the wait `w`, and a tick that left ELAPSED at `e`. -/
def State.polledAndTicked (s : State) (w : Nat) (e : BitVec 16) (rest : List Turn) : State :=
  { s.polled w with agenda := rest, elapsed := e }

theorem runSteps_poll_tick {s : State} {rest : List Turn} (ha : s.agenda = .engine :: .tick :: rest)
    (hq : s.seq = .sPoll) (hd : s.txDone = false) (ht : s.elapsed.toNat < s.tmo.toNat) :
    ∃ e : BitVec 16, e.toNat = s.elapsed.toNat + 1 ∧
      runSteps 2 s = .next (s.polledAndTicked s.pollWait e rest) := by
  obtain ⟨e, he, htick⟩ := State.tick_polling (s := { s.polled s.pollWait with agenda := rest }) hq
  have hpoll : step s = .next { s.polled s.pollWait with agenda := .tick :: rest } :=
    (step_of_agenda_cons ha).trans (engineTurn_sPoll_wait (s := { s with agenda := _ }) hq hd ht)
  refine ⟨e, ?_, runSteps_add ((runSteps_one s).trans hpoll) ((runSteps_one _).trans ?_)⟩
  · have hmax := s.tmo.isLt
    have : e.toNat = min (s.elapsed.toNat + 1) 0xFFFF := he
    omega
  · exact (step_of_agenda_cons rfl).trans (congrArg _ htick)

/-- The state after such polls up to the time, the turns `rest` and the samples `answers` pending. -/
def State.polledToTimeout (s : State) (waits : List Nat) (answers : List Bool) (rest : List Turn) :
    State :=
  { s.afterPolls waits answers with agenda := rest, elapsed := s.tmo }

/-- `n` samples of 0, each followed by a tick, when `n` ticks are left. -/
theorem runSteps_ticked_polls {n : Nat} {answers : List Bool} {rest : List Turn} {s : State}
    (hq : s.seq = .sPoll) (hn : s.elapsed.toNat + n = s.tmo.toNat)
    (ha : s.agenda = (List.replicate n [Turn.engine, Turn.tick]).flatten ++ rest)
    (hd : s.txDoneAnswers = List.replicate n false ++ answers) :
    ∃ waits, PollWaits s.params n waits ∧
      runSteps (2 * n) s = .next (s.polledToTimeout waits answers rest) := by
  induction n generalizing s with
  | zero =>
    obtain rfl : s.txDoneAnswers = answers := hd
    obtain rfl : s.agenda = rest := ha
    have he : s.elapsed = s.tmo := BitVec.eq_of_toNat_eq hn
    refine ⟨[], .nil _, congrArg _ ?_⟩
    rw [State.polledToTimeout, ← he, State.afterPolls_nil]
  | succ n ih =>
    obtain ⟨e, he, hfirst⟩ := runSteps_poll_tick ha hq (State.txDone_of_cons hd) (by omega)
    obtain ⟨waits, hw, hrun⟩ := ih (s := s.polledAndTicked s.pollWait e _) hq
      (by change e.toNat + n = s.tmo.toNat; omega) rfl (congrArg List.tail hd)
    refine ⟨s.pollWait :: waits, hw.cons s.pollWait_le, ?_⟩
    rw [State.polledToTimeout, ← State.afterPolls_cons, Nat.mul_succ, Nat.add_comm]
    exact runSteps_add hfirst hrun

/-- A sample of 0 when the time has passed, and then Sleep (R250, R255). -/
theorem runSteps_timeout {s : State} (ha : s.agenda = [.engine, .engine]) (hq : s.seq = .sPoll)
    (hd : s.txDone = false) (ht : s.tmo.toNat ≤ s.elapsed.toNat) :
    runSteps 2 s = .next (microSleep { s.pollEnded false true with agenda := [] }) := by
  have hpoll : step s = .next { s.pollEnded false true with agenda := [.engine] } :=
    (step_of_agenda_cons ha).trans (engineTurn_sPoll_timeout (s := { s with agenda := _ }) hq hd ht)
  refine runSteps_add ((runSteps_one s).trans hpoll) ((runSteps_one _).trans ?_)
  exact Eq.trans (step_of_engineNext (.inr rfl)) (engineTurn_sSleep rfl)

/-- Settles O40: the polls with their ticks, then the sample that comes too late and Sleep. -/
theorem unansweredPollEndsInSendTimeout : Obligations.UnansweredPollEndsInSendTimeout := by
  intro s n more hq hn ha hd
  rw [List.replicate_succ', List.append_assoc] at hd
  obtain ⟨waits, ⟨hlen, hle⟩, hrun⟩ := runSteps_ticked_polls hq hn ha hd
  refine ⟨waits, hlen, hle, runSteps_add hrun ?_⟩
  refine Eq.trans (runSteps_timeout rfl hq rfl le_rfl) ?_
  rw [microSleep_eq]
  simp [State.polledToTimeout, State.pollEnded, State.afterPolls, hlen, Nat.add_assoc]

end Sys2Proof.Machine

/-! PROOF. What a sound state excludes: no step faults (44_radio.md R257, 20_memory.md R67), and MODE
moves only around its cycle (R221). -/

namespace Sys2Proof.Machine

/-! ### No step faults -/

/-- A SEND under way has a session, and so a known region with a channel to draw. -/
theorem State.Inv.region_of_send {s : State} (h : s.Inv) (hq : s.seq.ofSend = true) :
    s.region.toNat < s.params.nRegion := by
  obtain ⟨⟨-, hs⟩, -⟩ : (s.ready = true ∧ s.sess = true) ∧ s.fvalid = true := by
    simpa [State.sendReady] using h.send_ready hq
  simpa [State.regionKnown] using h.region_known hs

theorem engineTurn_sChsel_completes {s : State} (hq : s.seq = .sChsel)
    (hr : s.region.toNat < s.params.nRegion) : ∃ t, engineTurn s = .next t := by
  rcases Bool.eq_false_or_eq_true s.chmode with hm | hm
  · exact ⟨_, engineTurn_sChsel_single hq hm⟩
  · obtain ⟨ch, plan, -, hp, hc⟩ := State.draw_channel hr
    exact ⟨_, engineTurn_sChsel_draw hq hm hr (Params.channel?_eq_some_iff.2 ⟨plan, hp, hc⟩)⟩

theorem engineTurn_sProg_completes {s : State} (hq : s.seq = .sProg) (hi : s.fidx.toNat ≤ 6) :
    ∃ t, engineTurn s = .next t := by
  by_cases h6 : s.fidx = 6
  · exact ⟨_, engineTurn_sProg_last hq h6⟩
  · have hrow : s.fidx.toNat < s.configurationRows.length := Nat.lt_succ_of_le hi
    exact ⟨_, engineTurn_sProg_write hq (List.getElem?_eq_getElem hrow) h6⟩

theorem engineTurn_sFifo_completes {s : State} (hq : s.seq = .sFifo) (hf : s.flen.toNat ≤ 64) :
    ∃ t, engineTurn s = .next t := by
  rcases Nat.lt_or_ge s.fidx.toNat s.flen.toNat with hk | hk
  · exact ⟨_, engineTurn_sFifo_write hq hf hk⟩
  · exact ⟨_, engineTurn_sFifo_last hq hk⟩

/-- In a sound state every micro-step completes; only three phases could stop at all. -/
theorem State.Inv.engineTurn_completes {s : State} (h : s.Inv) : ∃ t, engineTurn s = .next t := by
  cases hq : s.seq with
  | idle => exact ⟨_, engineTurn_idle hq⟩
  | iVer => exact ⟨_, engineTurn_iVer hq⟩
  | iRstA => exact ⟨_, engineTurn_iRstA hq⟩
  | iRstB => exact ⟨_, engineTurn_iRstB hq⟩
  | iBase => exact ⟨_, engineTurn_iBase hq⟩
  | sStdby => exact ⟨_, engineTurn_sStdby hq⟩
  | sChsel => exact engineTurn_sChsel_completes hq (h.region_of_send (by rw [hq]; rfl))
  | sProg => exact engineTurn_sProg_completes hq (h.prog_index hq)
  | sFifo => exact engineTurn_sFifo_completes hq h.frame_fits
  | sTxgo => exact ⟨_, engineTurn_sTxgo hq⟩
  | sPoll => exact ⟨_, engineTurn_sPoll hq⟩
  | sSleep => exact ⟨_, engineTurn_sSleep hq⟩

theorem issueCommand_ne_fault (c : Byte) (s : State) (f : Fault) : issueCommand c s ≠ .fault f := by
  unfold issueCommand
  split
  · exact exec_ne_fault _ s f
  · nofun

/-- A host write is refused, issues a command, or is a store; none of the three faults. -/
theorem hostWrite_ne_fault (a : BitVec 16) (v : Byte) (s : State) (f : Fault) :
    hostWrite a v s ≠ .fault f := by
  unfold hostWrite
  split_ifs
  · nofun
  · split
    · exact issueCommand_ne_fault v s f
    · nofun

theorem takeTurn_ne_fault {s : State} (h : s.Inv) (u : Turn) (f : Fault) :
    takeTurn u s ≠ .fault f := by
  cases u with
  | hostWrite a v => exact hostWrite_ne_fault a v s f
  | hostRead a => nofun
  | tick => nofun
  | resetPin => nofun
  | engine =>
    obtain ⟨t, ht⟩ := h.engineTurn_completes
    rw [takeTurn, ht]
    nofun

/-- Settles O43: the engine's own turn is one of the turns. -/
theorem soundStatesNeverFault : Obligations.SoundStatesNeverFault := by
  intro s h f hx
  rcases step_cases hx with ⟨-, hx⟩ | ⟨u, rest, -, hx⟩
  · exact takeTurn_ne_fault h .engine f hx
  · exact takeTurn_ne_fault (s := { s with agenda := rest }) { h with } u f hx

/-! ### The mode cycle -/

/-- MODE kept, or moved on around its cycle at the micro-step for it (R221). -/
def ModeMoves (s t : State) : Prop :=
  t.mode = s.mode ∨
  (s.mode = .sleep ∧ t.mode = .standby ∧ s.seq = .sStdby) ∨
  (s.mode = .standby ∧ t.mode = .transmit ∧ s.seq = .sTxgo) ∨
  (s.mode = .transmit ∧ t.mode = .sleep ∧ s.seq = .sSleep)

theorem microVersion_mode (s : State) : (microVersion s).mode = s.mode := by
  unfold microVersion
  split_ifs <;> rfl

theorem microPoll_mode (s : State) : (microPoll s).mode = s.mode := by
  unfold microPoll
  split_ifs <;> rfl

/-- RINIT's last step writes MODE, which is Sleep already. -/
theorem microBaseline_mode {s : State} (hm : s.mode = .sleep) : (microBaseline s).mode = s.mode := by
  unfold microBaseline
  split
  · rfl
  · exact hm.symm

theorem microSleep_mode (s : State) : (microSleep s).mode = .sleep := by rw [microSleep_eq]

theorem engineTurn_modeMoves {s t : State} (h : s.Inv) (hx : engineTurn s = .next t) :
    ModeMoves s t := by
  have hmode := h.mode_eq
  cases hq : s.seq with
  | idle => rw [engineTurn_idle hq] at hx; cases hx; exact .inl rfl
  | iVer => rw [engineTurn_iVer hq] at hx; cases hx; exact .inl (microVersion_mode s)
  | iRstA => rw [engineTurn_iRstA hq] at hx; cases hx; exact .inl rfl
  | iRstB => rw [engineTurn_iRstB hq] at hx; cases hx; exact .inl rfl
  | iBase =>
    rw [engineTurn_iBase hq] at hx; cases hx
    exact .inl (microBaseline_mode (by rw [hmode, hq]; rfl))
  | sStdby =>
    rw [engineTurn_sStdby hq] at hx; cases hx
    exact .inr (.inl ⟨by rw [hmode, hq]; rfl, rfl, hq⟩)
  | sChsel =>
    rw [engineTurn_sChsel hq] at hx
    rcases microChannel_cases hx with ⟨-, rfl⟩ | ⟨-, -, _, -, rfl⟩ <;> exact .inl rfl
  | sProg =>
    rw [engineTurn_sProg hq] at hx
    obtain ⟨_, -, ⟨-, rfl⟩ | ⟨-, rfl⟩⟩ := microConfigure_cases hx <;> exact .inl rfl
  | sFifo =>
    rw [engineTurn_sFifo hq] at hx
    rcases microFifo_cases hx with ⟨-, -, rfl⟩ | ⟨-, rfl⟩ <;> exact .inl rfl
  | sTxgo =>
    rw [engineTurn_sTxgo hq] at hx; cases hx
    exact .inr (.inr (.inl ⟨by rw [hmode, hq]; rfl, rfl, hq⟩))
  | sPoll => rw [engineTurn_sPoll hq] at hx; cases hx; exact .inl (microPoll_mode s)
  | sSleep =>
    rw [engineTurn_sSleep hq] at hx; cases hx
    exact .inr (.inr (.inr ⟨by rw [hmode, hq]; rfl, microSleep_mode s, hq⟩))

theorem exec_mode {i : Instr} {s t : State} (h : exec i s = .next t) : t.mode = s.mode := by
  rcases exec_sequencer h with ⟨-, -, hm⟩ | rfl | ⟨-, rfl⟩
  · exact hm
  · rfl
  · rfl

theorem hostWrite_mode {a : BitVec 16} {v : Byte} {s t : State} (h : hostWrite a v s = .next t) :
    t.mode = s.mode := by
  obtain ⟨-, ⟨-, hi⟩ | ⟨-, rfl⟩⟩ := hostWrite_cases h
  · rcases issueCommand_cases hi with ⟨i, -, hx⟩ | ⟨e, -, rfl⟩
    · exact exec_mode hx
    · rfl
  · exact State.store_mode ..

theorem State.tick_mode (s : State) : s.tick.mode = s.mode := by
  unfold State.tick
  split_ifs <;> rfl

theorem takeTurn_modeMoves {s t : State} (h : s.Inv) {u : Turn} (hu : u ≠ .resetPin)
    (hx : takeTurn u s = .next t) : ModeMoves s t := by
  cases u with
  | hostWrite a v => exact .inl (hostWrite_mode hx)
  | hostRead a => cases hx; exact .inl rfl
  | tick => cases hx; exact .inl s.tick_mode
  | resetPin => exact absurd rfl hu
  | engine => exact engineTurn_modeMoves h hx

/-- Settles O44: only the engine's turn moves MODE, and the invariant says where it stood before. -/
theorem modeMovesAroundItsCycle : Obligations.ModeMovesAroundItsCycle := by
  intro s t h hu hx
  rcases step_cases hx with ⟨-, hx⟩ | ⟨u, rest, ha, hx⟩
  · exact engineTurn_modeMoves h hx
  · have hne : u ≠ .resetPin := fun hr => hu (by rw [ha, hr]; rfl)
    exact takeTurn_modeMoves (s := { s with agenda := rest }) { h with } hne hx

end Sys2Proof.Machine

/-! PROOF. The system commands and the session: NOP and LDSESS (45_system.md R281, R282), and what
keeps or begins a session (R282, R283, 10_state.md R26). -/

namespace Sys2Proof.Machine

/-! ### NOP (R281) -/

theorem exec_nop (s : State) : exec .nop s = .next (s.endWith 0) := rfl

/-- Settles O5. -/
theorem nopOnlyClearsErr : Obligations.NopOnlyClearsErr := ⟨rfl, exec_nop⟩

/-! ### LDSESS (R282) -/

theorem State.regionKnown_iff (s : State) :
    s.regionKnown = true ↔ s.region.toNat < s.params.nRegion := decide_eq_true_iff

theorem exec_ldsess_of_session {s : State} (hs : s.sess = true) :
    exec .ldsess s = .next (s.endWith 0) := if_pos hs

theorem exec_ldsess_of_region {s : State} (hs : s.sess = false)
    (hr : s.region.toNat < s.params.nRegion) :
    exec .ldsess s = .next ({ s with sess := true }.endWith 0) :=
  (if_neg (by simp [hs])).trans (if_pos (s.regionKnown_iff.2 hr))

theorem exec_ldsess_of_no_region {s : State} (hs : s.sess = false)
    (hr : s.params.nRegion ≤ s.region.toNat) : exec .ldsess s = .next (s.endWith 2) :=
  (if_neg (by simp [hs])).trans (if_neg (mt s.regionKnown_iff.1 hr.not_gt))

/-- Settles O6. -/
theorem ldsessConstructsTheSession : Obligations.LdsessConstructsTheSession :=
  ⟨rfl, fun _ => ⟨exec_ldsess_of_region, exec_ldsess_of_no_region, exec_ldsess_of_session⟩⟩

/-! ### What keeps a session -/

/-- SESS is kept, and the credentials too while it is 1 (10_state.md R26). -/
def SessionKept (s t : State) : Prop :=
  t.sess = s.sess ∧ (s.sess = true → t.devaddr = s.devaddr ∧ t.nwkskey = s.nwkskey ∧
    t.appskey = s.appskey ∧ t.region = s.region)

/-- The credentials are among the operands, which no command and no micro-step writes. -/
theorem SessionKept.of_operands {s t : State} (hs : t.sess = s.sess)
    (ho : t.operands = s.operands) : SessionKept s t := by
  simp only [State.operands, Prod.mk.injEq] at ho
  obtain ⟨-, -, -, -, -, -, -, -, -, haddr, hnwk, happ, hregion, -⟩ := ho
  exact ⟨hs, fun _ => ⟨haddr, hnwk, happ, hregion⟩⟩

/-- A host write to a register or a buffer keeps a session. -/
theorem SessionKept.store (s : State) (loc : HostLoc) (v : Byte) : SessionKept s (s.store loc v) :=
  ⟨s.store_sess loc v, s.store_credentials loc v⟩

theorem SessionKept.tick (s : State) : SessionKept s s.tick := by
  unfold State.tick
  split_ifs <;> exact .of_operands rfl rfl

/-- A command keeps SESS, or it is LDSESS without a session and with a recognised region. -/
theorem exec_sess {i : Instr} {s t : State} (h : exec i s = .next t) :
    t.sess = s.sess ∨ (i = .ldsess ∧ s.sess = false ∧ s.regionKnown = true) := by
  cases i with
  | nop => cases h; exact .inl rfl
  | ldsess =>
    rcases execLdsess_cases h with ⟨-, rfl⟩ | ⟨hs, hr, rfl⟩ | ⟨-, -, rfl⟩
    · exact .inl rfl
    · exact .inr ⟨rfl, hs, hr⟩
    · exact .inl rfl
  | ksblk => rcases execKsblk_cases h with ⟨-, rfl⟩ | ⟨-, rfl⟩ <;> exact .inl rfl
  | crypt => rcases execCrypt_cases h with ⟨-, rfl⟩ | ⟨-, rfl⟩ <;> exact .inl rfl
  | micgen => rcases execMicgen_cases h with ⟨-, rfl⟩ | ⟨-, -, rfl⟩ <;> exact .inl rfl
  | build => rcases execBuild_cases h with ⟨-, rfl⟩ | ⟨-, -, rfl⟩ | ⟨-, -, rfl⟩ <;> exact .inl rfl
  | rinit => cases h; exact .inl rfl
  | setdr => rcases execSetdr_cases h with ⟨_, -, rfl⟩ | ⟨-, rfl⟩ <;> exact .inl rfl
  | setch => rcases execSetch_cases h with ⟨-, rfl⟩ | ⟨-, _, -, rfl⟩ <;> exact .inl rfl
  | send => rcases execSend_cases h with ⟨-, rfl⟩ | ⟨-, rfl⟩ <;> exact .inl rfl

theorem microVersion_sess (s : State) : (microVersion s).sess = s.sess := by
  unfold microVersion
  split_ifs <;> rfl

theorem microBaseline_sess (s : State) : (microBaseline s).sess = s.sess := by
  unfold microBaseline
  split <;> rfl

theorem microPoll_sess (s : State) : (microPoll s).sess = s.sess := by
  unfold microPoll
  split_ifs <;> rfl

theorem microSleep_sess (s : State) : (microSleep s).sess = s.sess := by rw [microSleep_eq]

/-- Every micro-step keeps SESS. -/
theorem engineTurn_sess {s t : State} (h : engineTurn s = .next t) : t.sess = s.sess := by
  cases hq : s.seq with
  | idle => rw [engineTurn_idle hq] at h; cases h; rfl
  | iVer => rw [engineTurn_iVer hq] at h; cases h; exact microVersion_sess s
  | iRstA => rw [engineTurn_iRstA hq] at h; cases h; rfl
  | iRstB => rw [engineTurn_iRstB hq] at h; cases h; rfl
  | iBase => rw [engineTurn_iBase hq] at h; cases h; exact microBaseline_sess s
  | sStdby => rw [engineTurn_sStdby hq] at h; cases h; rfl
  | sChsel =>
    rw [engineTurn_sChsel hq] at h
    rcases microChannel_cases h with ⟨-, rfl⟩ | ⟨-, -, _, -, rfl⟩ <;> rfl
  | sProg =>
    rw [engineTurn_sProg hq] at h
    obtain ⟨_, -, ⟨-, rfl⟩ | ⟨-, rfl⟩⟩ := microConfigure_cases h <;> rfl
  | sFifo =>
    rw [engineTurn_sFifo hq] at h
    rcases microFifo_cases h with ⟨-, -, rfl⟩ | ⟨-, rfl⟩ <;> rfl
  | sTxgo => rw [engineTurn_sTxgo hq] at h; cases h; rfl
  | sPoll => rw [engineTurn_sPoll hq] at h; cases h; exact microPoll_sess s
  | sSleep => rw [engineTurn_sSleep hq] at h; cases h; exact microSleep_sess s

theorem engineTurn_sessionKept {s t : State} (h : engineTurn s = .next t) : SessionKept s t :=
  .of_operands (engineTurn_sess h) (engineTurn_operands h)

/-! ### What begins a session -/

/-- The turn `u` begins a session: the byte of LDSESS written to CMD, with no session yet and a
recognised region (R282). -/
def BeginsSession (u : Turn) (s : State) : Prop :=
  u = .hostWrite 0x0000 0x01 ∧ s.sess = false ∧ s.region.toNat < s.params.nRegion

/-- A host write keeps a session unless it is the LDSESS that begins one: CMD stands at address 0
alone, and byte 0x01 alone decodes to LDSESS. -/
theorem hostWrite_session {a : BitVec 16} {v : Byte} {s t : State} (h : hostWrite a v s = .next t) :
    SessionKept s t ∨ BeginsSession (.hostWrite a v) s := by
  obtain ⟨-, ⟨hcmd, hi⟩ | ⟨-, rfl⟩⟩ := hostWrite_cases h
  · rcases issueCommand_cases hi with ⟨i, hd, hx⟩ | ⟨e, -, rfl⟩
    · rcases exec_sess hx with hs | ⟨rfl, hs, hr⟩
      · exact .inl (.of_operands hs (exec_operands hx).1)
      · obtain rfl : a = 0 := not_imp_not.1 locate_ne_cmd hcmd
        obtain rfl : v = 0x01 := decodeByte_eq_ok_iff.1 hd
        exact .inr ⟨rfl, hs, s.regionKnown_iff.1 hr⟩
    · exact .inl (.of_operands rfl rfl)
  · exact .inl (.store s (locate a) v)

/-- Every turn but a reset keeps a session, or it is the LDSESS that begins one. -/
theorem takeTurn_session {u : Turn} (hu : u ≠ .resetPin) {s t : State}
    (h : takeTurn u s = .next t) : SessionKept s t ∨ BeginsSession u s := by
  cases u with
  | hostWrite a v => exact hostWrite_session h
  | hostRead a => cases h; exact .inl (.of_operands rfl rfl)
  | tick => cases h; exact .inl (.tick s)
  | resetPin => exact absurd rfl hu
  | engine => exact .inl (engineTurn_sessionKept h)

/-- Every step but a reset keeps a session, or takes the turn that begins one. -/
theorem step_session {s t : State} (hu : s.agenda.head? ≠ some .resetPin) (h : step s = .next t) :
    SessionKept s t ∨ ∃ u, s.agenda.head? = some u ∧ BeginsSession u s := by
  rcases step_cases h with ⟨-, hx⟩ | ⟨u, rest, ha, hx⟩
  · exact .inl (engineTurn_sessionKept hx)
  · have hhead : s.agenda.head? = some u := by rw [ha]; rfl
    have hne : u ≠ .resetPin := fun hr => hu (hhead.trans (congrArg some hr))
    exact (takeTurn_session (s := { s with agenda := rest }) hne hx).imp_right
      fun hb => ⟨u, hhead, hb⟩

/-- Settles O45: a step that keeps SESS begins no session, and the turn that begins one finds
none to keep. -/
theorem sessionsAreImmutable : Obligations.SessionsAreImmutable := by
  intro s t hu h
  rcases step_session hu h with ⟨hs, hkept⟩ | ⟨_, hhead, rfl, hs, hr⟩
  · exact ⟨fun h1 => ⟨hs.trans h1, hkept h1⟩,
      fun h0 h1 => absurd (hs.symm.trans h1) (by simp [h0])⟩
  · exact ⟨fun h1 => absurd h1 (by simp [hs]), fun _ _ => ⟨hhead, hr⟩⟩

end Sys2Proof.Machine

/-! PROOF. The errors of 60_exceptions.md that end a command at its issue: a reserved byte (R295) and a
failed precondition (R296, R297). -/

namespace Sys2Proof.Machine

/-! ### A reserved byte (R295) -/

/-- Every command's byte is one of the ten of the opcode map (30_encoding.md R92). -/
theorem encodeByte_mem_opcodes (i : Instr) :
    encodeByte i ∈
      [(0x00 : Byte), 0x01, 0x10, 0x11, 0x20, 0x30, 0x40, 0x41, 0x42, 0x43] := by
  cases i <;> decide

/-- A byte that encodes no command decodes to an error. -/
theorem decodeByte_eq_error {c : Byte} (hc : ∀ i, c ≠ encodeByte i) :
    ∃ e, decodeByte c = .error e := by
  cases hd : decodeByte c with
  | ok i => exact absurd (decodeByte_eq_ok_iff.1 hd) (hc i)
  | error e => exact ⟨e, rfl⟩

theorem issueCommand_of_error {c : Byte} {e : DecodeError} (s : State)
    (hd : decodeByte c = .error e) : issueCommand c s = .next (s.endWith 6) := by
  simp [issueCommand, decode, hd, ErrorKind.code]

/-- Settles O3: the ten bytes of the opcode map are all that decode to a command. -/
theorem reservedByteIsIllegalCommand : Obligations.ReservedByteIsIllegalCommand := by
  intro s c rest hs hb hc
  have hne : ∀ i, c ≠ encodeByte i := fun i h => hc (h ▸ encodeByte_mem_opcodes i)
  obtain ⟨e, hd⟩ := decodeByte_eq_error hne
  calc step s = hostWrite 0x0000 c { s with agenda := rest } := step_of_agenda_cons hs
    _ = issueCommand c { s with agenda := rest } := hostWrite_cmd hb
    _ = .next (({ s with agenda := rest } : State).endWith 6) := issueCommand_of_error _ hd

/-! ### A failed precondition (R296, R297) -/

theorem exec_build_of_no_session {s : State} (hs : s.sess = false) :
    exec .build s = .next (s.endWith 7) := if_neg (by simp [hs])

/-- SEND needs all three of READY, SESS and FVALID (44_radio.md R242). -/
theorem exec_send_of_not_ready {s : State}
    (h : s.sess = false ∨ s.ready = false ∨ s.fvalid = false) :
    exec .send s = .next (s.endWith 7) := by
  have hn : s.sendReady = false := by rcases h with h | h | h <;> simp [State.sendReady, h]
  exact if_neg (by simp [hn])

/-- The commands with a precondition on SESS (R296). -/
theorem exec_of_no_session {s : State} (hs : s.sess = false) {i : Instr}
    (hi : i ∈ [Instr.ksblk, .crypt, .micgen, .build, .setch, .send]) :
    exec i s = .next (s.endWith 7) := by
  simp only [List.mem_cons, List.not_mem_nil, or_false] at hi
  rcases hi with rfl | rfl | rfl | rfl | rfl | rfl
  · exact exec_ksblk_of_no_session hs
  · exact exec_crypt_of_no_session hs
  · exact exec_micgen_of_no_session hs
  · exact exec_build_of_no_session hs
  · exact exec_setch_of_no_session hs
  · exact exec_send_of_not_ready (.inl hs)

/-- Settles O7. -/
theorem notReadyChangesOnlyErr : Obligations.NotReadyChangesOnlyErr :=
  fun _ => ⟨fun hs _ => exec_of_no_session hs, fun h => exec_send_of_not_ready (.inr h)⟩

end Sys2Proof.Machine

/-! PROOF. RST_N (70_reset_and_hazards.md R320 to R322): its turn never looks at the phase, so one
equation describes it in every state. -/

namespace Sys2Proof.Machine

/-! ### What a reset leaves -/

/-- Every byte of both buffers is free again. -/
@[simp] theorem State.resetEngine_find? (s : State) (a : Nat) :
    s.resetEngine.mem.find? a = none := rfl

/-- But for the model's own fields, a reset leaves the installation's state after power-on: the old
state enters through its parameters alone. -/
theorem State.resetEngine_registers (s : State) :
    { s.resetEngine with resets := 0, agenda := [], busAnswers := [], txDoneAnswers := [],
                         drawAnswers := [], asked := 0, trace := [], hostReads := [] } =
      State.resetWith s.params := rfl

/-- RST_N completes whatever SEQ and BUSY are. -/
theorem step_resetPin {s : State} {rest : List Turn} (hs : s.agenda = .resetPin :: rest) :
    step s = .next ({ s with agenda := rest } : State).resetEngine :=
  step_of_agenda_cons hs

/-- Settles O59: the state is `State.resetEngine` of the one whose agenda has lost the reset; each
field is written there or is that of `State.resetWith`. -/
theorem resetPinAbandonsTheCommand : Obligations.ResetPinAbandonsTheCommand := by
  intro s rest hs
  exact ⟨_, step_resetPin hs, rfl, rfl, rfl, rfl, rfl, rfl, rfl, rfl, rfl, rfl, rfl, rfl, rfl, rfl,
    rfl, rfl, rfl, rfl, rfl, State.resetEngine_find? _, State.resetEngine_registers _⟩

end Sys2Proof.Machine
